-- ==== Sys2Proof/Word.lean ====
section
/-! DEFINITION. The widths of the machine: 64-bit registers and pointers, 128-bit PAC keys,
bytes, 32-bit instruction words and 5-bit register numbers (00_scope.md section 4, 30_encoding.md R87). -/

namespace Sys2Proof

/-- A 64-bit register, pointer or virtual address (R20, R22). -/
abbrev Word := BitVec 64

/-- A byte of memory (R36). -/
abbrev Byte := BitVec 8

/-- A 128-bit PAC key (R26). -/
abbrev PacKey := BitVec 128

/-- A 32-bit instruction word (R80). -/
abbrev InstrWord := BitVec 32

/-- A 5-bit register field; number 31 is SP or XZR according to the field (R87). -/
abbrev RegNum := BitVec 5

end Sys2Proof
end

