-- ==== Sys2Proof/Syntax.lean ====
section
/-! DEFINITION. The instructions: one constructor per row of spec/opcode_table.json (30_encoding.md R88),
with the operands of R91. Register operands are 5-bit numbers (R87); a load offset is its byte value (R86). -/

namespace Sys2Proof

/-- An instruction of the opcode table, in the table's order. -/
inductive Instr where
  | pacia (rd rn : RegNum)
  | pacib (rd rn : RegNum)
  | pacda (rd rn : RegNum)
  | pacdb (rd rn : RegNum)
  | paciza (rd : RegNum)
  | pacizb (rd : RegNum)
  | pacdza (rd : RegNum)
  | pacdzb (rd : RegNum)
  | pacia1716
  | pacib1716
  | paciaz
  | paciasp
  | pacibz
  | pacibsp
  | paciasppc
  | autia (rd rn : RegNum)
  | autib (rd rn : RegNum)
  | autda (rd rn : RegNum)
  | autdb (rd rn : RegNum)
  | autiza (rd : RegNum)
  | autizb (rd : RegNum)
  | autdza (rd : RegNum)
  | autdzb (rd : RegNum)
  | autia1716
  | autib1716
  | autiaz
  | autiasp
  | autibz
  | autibsp
  | xpaci (rd : RegNum)
  | xpacd (rd : RegNum)
  | xpaclri
  | pacga (rd rn rm : RegNum)
  | braa (rn rm : RegNum)
  | brab (rn rm : RegNum)
  | braaz (rn : RegNum)
  | brabz (rn : RegNum)
  | blraa (rn rm : RegNum)
  | blrab (rn rm : RegNum)
  | blraaz (rn : RegNum)
  | blrabz (rn : RegNum)
  | retaa
  | retab
  | ret (rn : RegNum)
  | eretaa
  | eretab
  | ldraaOffset (rt rn : RegNum) (offset : Int)
  | ldraaPre (rt rn : RegNum) (offset : Int)
  | ldrabOffset (rt rn : RegNum) (offset : Int)
  | ldrabPre (rt rn : RegNum) (offset : Int)
  | pacm
  | nop
  deriving DecidableEq, Repr

end Sys2Proof
end

