-- ==== Sys2Proof/WellFormed.lean ====
section
/-! DEFINITION. Which instruction terms an encoding exists for: a load offset is a multiple of 8 from
-4096 to 4088 (30_encoding.md R86). Register numbers are well-formed by their type (R87). -/

namespace Sys2Proof

/-- The byte offset is a multiple of 8 (R86). -/
def offsetScaled (offset : Int) : Bool := offset % 8 == 0

/-- The byte offset lies from -4096 to 4088 (R86). -/
def offsetInRange (offset : Int) : Bool := decide (-4096 ≤ offset) && decide (offset ≤ 4088)

/-- An instruction that has an encoding. -/
def Instr.wellFormed : Instr → Bool
  | .pacia _ _ => true
  | .pacib _ _ => true
  | .pacda _ _ => true
  | .pacdb _ _ => true
  | .paciza _ => true
  | .pacizb _ => true
  | .pacdza _ => true
  | .pacdzb _ => true
  | .pacia1716 => true
  | .pacib1716 => true
  | .paciaz => true
  | .paciasp => true
  | .pacibz => true
  | .pacibsp => true
  | .paciasppc => true
  | .autia _ _ => true
  | .autib _ _ => true
  | .autda _ _ => true
  | .autdb _ _ => true
  | .autiza _ => true
  | .autizb _ => true
  | .autdza _ => true
  | .autdzb _ => true
  | .autia1716 => true
  | .autib1716 => true
  | .autiaz => true
  | .autiasp => true
  | .autibz => true
  | .autibsp => true
  | .xpaci _ => true
  | .xpacd _ => true
  | .xpaclri => true
  | .pacga _ _ _ => true
  | .braa _ _ => true
  | .brab _ _ => true
  | .braaz _ => true
  | .brabz _ => true
  | .blraa _ _ => true
  | .blrab _ _ => true
  | .blraaz _ => true
  | .blrabz _ => true
  | .retaa => true
  | .retab => true
  | .ret _ => true
  | .eretaa => true
  | .eretab => true
  | .ldraaOffset _ _ offset => offsetScaled offset && offsetInRange offset
  | .ldraaPre _ _ offset => offsetScaled offset && offsetInRange offset
  | .ldrabOffset _ _ offset => offsetScaled offset && offsetInRange offset
  | .ldrabPre _ _ offset => offsetScaled offset && offsetInRange offset
  | .pacm => true
  | .nop => true

end Sys2Proof
end

