-- ==== Sys2Proof/Decode.lean ====
section
/-! DEFINITION. The encoding table of 30_encoding.md R88 (all of it PRESUMED: the source holds no encoding,
log 26), the decoder that reads it, and the encoder. A word is the instruction of a row when
`word AND mask = match`; a word of no row is rejected by name, with what it is (R89, R90, log 25). -/

namespace Sys2Proof

/-- The register field in bits [4:0]: Rd, Rt or, in the branches, op4 as Rm (R82 to R85). -/
def fieldLow (w : InstrWord) : RegNum := w.extractLsb' 0 5

/-- The register field in bits [9:5]: Rn (R82 to R85). -/
def fieldMid (w : InstrWord) : RegNum := w.extractLsb' 5 5

/-- The register field in bits [20:16]: Rm of PACGA (R83). -/
def fieldHigh (w : InstrWord) : RegNum := w.extractLsb' 16 5

/-- The byte offset S:imm9:000 of a load, sign-extended (R85, R86). -/
def fieldOffset (w : InstrWord) : Int :=
  8 * (w.extractLsb' 22 1 ++ w.extractLsb' 12 9).toInt

/-- A register number placed in bits [4:0]. -/
def placeLow (r : RegNum) : InstrWord := r.setWidth 32

/-- A register number placed in bits [9:5]. -/
def placeMid (r : RegNum) : InstrWord := r.setWidth 32 <<< 5

/-- A register number placed in bits [20:16]. -/
def placeHigh (r : RegNum) : InstrWord := r.setWidth 32 <<< 16

/-- S and imm9 of a byte offset, placed in bits [22] and [20:12] (R85, R86). -/
def placeOffset (offset : Int) : InstrWord :=
  let scaled : BitVec 10 := BitVec.ofInt 10 (offset / 8)
  (scaled.extractLsb' 9 1).setWidth 32 <<< 22 ||| (scaled.extractLsb' 0 9).setWidth 32 <<< 12

/-- A row of the encoding table (R88). -/
structure EncodingRow where
  mnemonic : String
  mask : InstrWord
  pattern : InstrWord
  build : InstrWord → Instr

/-- `word AND mask = match` (R88). -/
def EncodingRow.matches (r : EncodingRow) (w : InstrWord) : Bool := w &&& r.mask == r.pattern

/-- Insert a PAC (41_pac_insert.md). -/
def insertRows : List EncodingRow := [
  ⟨"PACIA", 0xfffffc00#32, 0xdac10000#32, fun w => .pacia (fieldLow w) (fieldMid w)⟩,
  ⟨"PACIB", 0xfffffc00#32, 0xdac10400#32, fun w => .pacib (fieldLow w) (fieldMid w)⟩,
  ⟨"PACDA", 0xfffffc00#32, 0xdac10800#32, fun w => .pacda (fieldLow w) (fieldMid w)⟩,
  ⟨"PACDB", 0xfffffc00#32, 0xdac10c00#32, fun w => .pacdb (fieldLow w) (fieldMid w)⟩,
  ⟨"PACIZA", 0xffffffe0#32, 0xdac123e0#32, fun w => .paciza (fieldLow w)⟩,
  ⟨"PACIZB", 0xffffffe0#32, 0xdac127e0#32, fun w => .pacizb (fieldLow w)⟩,
  ⟨"PACDZA", 0xffffffe0#32, 0xdac12be0#32, fun w => .pacdza (fieldLow w)⟩,
  ⟨"PACDZB", 0xffffffe0#32, 0xdac12fe0#32, fun w => .pacdzb (fieldLow w)⟩,
  ⟨"PACIA1716", 0xffffffff#32, 0xd503211f#32, fun _ => .pacia1716⟩,
  ⟨"PACIB1716", 0xffffffff#32, 0xd503215f#32, fun _ => .pacib1716⟩,
  ⟨"PACIAZ", 0xffffffff#32, 0xd503231f#32, fun _ => .paciaz⟩,
  ⟨"PACIASP", 0xffffffff#32, 0xd503233f#32, fun _ => .paciasp⟩,
  ⟨"PACIBZ", 0xffffffff#32, 0xd503235f#32, fun _ => .pacibz⟩,
  ⟨"PACIBSP", 0xffffffff#32, 0xd503237f#32, fun _ => .pacibsp⟩,
  ⟨"PACIASPPC", 0xffffffff#32, 0xdac1a3fe#32, fun _ => .paciasppc⟩]

/-- Authenticate a PAC (42_pac_authenticate.md). -/
def authenticateRows : List EncodingRow := [
  ⟨"AUTIA", 0xfffffc00#32, 0xdac11000#32, fun w => .autia (fieldLow w) (fieldMid w)⟩,
  ⟨"AUTIB", 0xfffffc00#32, 0xdac11400#32, fun w => .autib (fieldLow w) (fieldMid w)⟩,
  ⟨"AUTDA", 0xfffffc00#32, 0xdac11800#32, fun w => .autda (fieldLow w) (fieldMid w)⟩,
  ⟨"AUTDB", 0xfffffc00#32, 0xdac11c00#32, fun w => .autdb (fieldLow w) (fieldMid w)⟩,
  ⟨"AUTIZA", 0xffffffe0#32, 0xdac133e0#32, fun w => .autiza (fieldLow w)⟩,
  ⟨"AUTIZB", 0xffffffe0#32, 0xdac137e0#32, fun w => .autizb (fieldLow w)⟩,
  ⟨"AUTDZA", 0xffffffe0#32, 0xdac13be0#32, fun w => .autdza (fieldLow w)⟩,
  ⟨"AUTDZB", 0xffffffe0#32, 0xdac13fe0#32, fun w => .autdzb (fieldLow w)⟩,
  ⟨"AUTIA1716", 0xffffffff#32, 0xd503219f#32, fun _ => .autia1716⟩,
  ⟨"AUTIB1716", 0xffffffff#32, 0xd50321df#32, fun _ => .autib1716⟩,
  ⟨"AUTIAZ", 0xffffffff#32, 0xd503239f#32, fun _ => .autiaz⟩,
  ⟨"AUTIASP", 0xffffffff#32, 0xd50323bf#32, fun _ => .autiasp⟩,
  ⟨"AUTIBZ", 0xffffffff#32, 0xd50323df#32, fun _ => .autibz⟩,
  ⟨"AUTIBSP", 0xffffffff#32, 0xd50323ff#32, fun _ => .autibsp⟩]

/-- Strip and generic (43_pac_strip_generic.md). -/
def stripRows : List EncodingRow := [
  ⟨"XPACI", 0xffffffe0#32, 0xdac143e0#32, fun w => .xpaci (fieldLow w)⟩,
  ⟨"XPACD", 0xffffffe0#32, 0xdac147e0#32, fun w => .xpacd (fieldLow w)⟩,
  ⟨"XPACLRI", 0xffffffff#32, 0xd50320ff#32, fun _ => .xpaclri⟩,
  ⟨"PACGA", 0xffe0fc00#32, 0x9ac03000#32, fun w => .pacga (fieldLow w) (fieldMid w) (fieldHigh w)⟩]

/-- Authenticate and branch (44_pac_combined.md). -/
def branchRows : List EncodingRow := [
  ⟨"BRAA", 0xfffffc00#32, 0xd71f0800#32, fun w => .braa (fieldMid w) (fieldLow w)⟩,
  ⟨"BRAB", 0xfffffc00#32, 0xd71f0c00#32, fun w => .brab (fieldMid w) (fieldLow w)⟩,
  ⟨"BRAAZ", 0xfffffc1f#32, 0xd61f081f#32, fun w => .braaz (fieldMid w)⟩,
  ⟨"BRABZ", 0xfffffc1f#32, 0xd61f0c1f#32, fun w => .brabz (fieldMid w)⟩,
  ⟨"BLRAA", 0xfffffc00#32, 0xd73f0800#32, fun w => .blraa (fieldMid w) (fieldLow w)⟩,
  ⟨"BLRAB", 0xfffffc00#32, 0xd73f0c00#32, fun w => .blrab (fieldMid w) (fieldLow w)⟩,
  ⟨"BLRAAZ", 0xfffffc1f#32, 0xd63f081f#32, fun w => .blraaz (fieldMid w)⟩,
  ⟨"BLRABZ", 0xfffffc1f#32, 0xd63f0c1f#32, fun w => .blrabz (fieldMid w)⟩,
  ⟨"RETAA", 0xffffffff#32, 0xd65f0bff#32, fun _ => .retaa⟩,
  ⟨"RETAB", 0xffffffff#32, 0xd65f0fff#32, fun _ => .retab⟩,
  ⟨"RET", 0xfffffc1f#32, 0xd65f0000#32, fun w => .ret (fieldMid w)⟩,
  ⟨"ERETAA", 0xffffffff#32, 0xd69f0bff#32, fun _ => .eretaa⟩,
  ⟨"ERETAB", 0xffffffff#32, 0xd69f0fff#32, fun _ => .eretab⟩]

/-- Authenticate and load (44_pac_combined.md). -/
def loadRows : List EncodingRow := [
  ⟨"LDRAA__offset", 0xffa00c00#32, 0xf8200400#32, fun w => .ldraaOffset (fieldLow w) (fieldMid w) (fieldOffset w)⟩,
  ⟨"LDRAA__pre-indexed", 0xffa00c00#32, 0xf8200c00#32, fun w => .ldraaPre (fieldLow w) (fieldMid w) (fieldOffset w)⟩,
  ⟨"LDRAB__offset", 0xffa00c00#32, 0xf8a00400#32, fun w => .ldrabOffset (fieldLow w) (fieldMid w) (fieldOffset w)⟩,
  ⟨"LDRAB__pre-indexed", 0xffa00c00#32, 0xf8a00c00#32, fun w => .ldrabPre (fieldLow w) (fieldMid w) (fieldOffset w)⟩]

/-- PACM and NOP (45_pacm.md, R89). -/
def pacmRows : List EncodingRow := [
  ⟨"PACM", 0xffffffff#32, 0xd50324ff#32, fun _ => .pacm⟩,
  ⟨"NOP", 0xffffffff#32, 0xd503201f#32, fun _ => .nop⟩]

/-- The whole table (R88). -/
def encodingRows : List EncodingRow :=
  insertRows ++ authenticateRows ++ stripRows ++ branchRows ++ loadRows ++ pacmRows

/-- The instruction of a word, or none where no row matches (R88, R90). -/
def decodeWord (w : InstrWord) : Option Instr :=
  (encodingRows.find? (fun r => r.matches w)).map (fun r => r.build w)

/-- What a word of no row is (R89, R90, log 25). -/
inductive NoRow where
  /-- An unallocated number of the hint space, which executes as a NOP (R89). -/
  | hint
  /-- An unallocated word of format D1 or B, which is UNDEFINED (R90). -/
  | unallocated
  /-- A word that FEAT_PAuth_LR can give to an instruction the spec leaves out (D34); UNDEFINED without it. -/
  | pauthLRSpace
  /-- An instruction of the surrounding machine, or an illegal word outside the formats of the spec (R90). -/
  | surrounding
  deriving DecidableEq, Repr

/-- Why bytes are no instruction of this spec. -/
inductive DecodeReject where
  /-- Fewer than four bytes (R80). -/
  | tooShort
  /-- A word that matches no row of the table. -/
  | noRow (kind : NoRow) (w : InstrWord)
  deriving DecidableEq, Repr

/-- Format H: a word of the hint space (R81, R89). -/
def inFormatH (w : InstrWord) : Bool := w &&& 0xfffff01f#32 == 0xd503201f#32

/-- BTI, the one format H instruction that R81 names and the table leaves out; nothing may be assumed of it
(N29). Its four hint numbers, 32, 34, 36 and 38, are PRESUMED (log 25). -/
def isBTI (w : InstrWord) : Bool := w &&& 0xffffff3f#32 == 0xd503241f#32

/-- Format D1 (R82). -/
def inFormatD1 (w : InstrWord) : Bool := w &&& 0xffff0000#32 == 0xdac10000#32

/-- Format B (R84). -/
def inFormatB (w : InstrWord) : Bool := w &&& 0xfe1f0000#32 == 0xd61f0000#32

/-- BR, BLR and ERET, the format B instructions of the surrounding machine: op3 and op4 as in RET, opc as in BRAAZ,
BLRAAZ and ERETAA (R84, R190, R255). PRESUMED, log 25. -/
def isPlainBranch (w : InstrWord) : Bool :=
  w &&& 0xfffffc1f#32 == 0xd61f0000#32 || w &&& 0xfffffc1f#32 == 0xd63f0000#32 || w == 0xd69f03e0#32

/-- The words that the instructions of D34 can have in formats D1 and B: those of D1 with PACIASPPC's opcode[5:4] = 10
and Rd = X30, and the RETAA and RETAB words with a register in op4. PRESUMED, log 25. -/
def inPAuthLRSpace (w : InstrWord) : Bool :=
  w &&& 0xffffc01f#32 == 0xdac1801e#32 || w &&& 0xfffffbe0#32 == 0xd65f0be0#32

/-- What a word of no row is. Formats D2 and L have no such word: their rows take every operand (R83, R85). -/
def noRowKind (w : InstrWord) : NoRow :=
  if inFormatH w then (if isBTI w then .surrounding else .hint)
  else if inPAuthLRSpace w then .pauthLRSpace
  else if (inFormatD1 w || inFormatB w) && !isPlainBranch w then .unallocated
  else .surrounding

/-- A word from its four bytes, the byte at the lowest address first (R63, R80). -/
def wordOfBytes (b0 b1 b2 b3 : Byte) : InstrWord := b3 ++ b2 ++ b1 ++ b0

/-- The four bytes of a word, the byte at the lowest address first (R63, R80). -/
def bytesOfWord (w : InstrWord) : List Byte :=
  [w.extractLsb' 0 8, w.extractLsb' 8 8, w.extractLsb' 16 8, w.extractLsb' 24 8]

/-- The first instruction of a byte string and the bytes after it; total, rejecting by name. -/
def decode : List Byte → Except DecodeReject (Instr × List Byte)
  | b0 :: b1 :: b2 :: b3 :: rest =>
    match decodeWord (wordOfBytes b0 b1 b2 b3) with
    | some i => .ok (i, rest)
    | none => .error (.noRow (noRowKind (wordOfBytes b0 b1 b2 b3)) (wordOfBytes b0 b1 b2 b3))
  | _ => .error .tooShort

/-- The word of an instruction, written from the formats of R81 to R85. -/
def encode : Instr → InstrWord
  | .pacia rd rn => 0xdac10000#32 ||| placeLow rd ||| placeMid rn
  | .pacib rd rn => 0xdac10400#32 ||| placeLow rd ||| placeMid rn
  | .pacda rd rn => 0xdac10800#32 ||| placeLow rd ||| placeMid rn
  | .pacdb rd rn => 0xdac10c00#32 ||| placeLow rd ||| placeMid rn
  | .paciza rd => 0xdac123e0#32 ||| placeLow rd
  | .pacizb rd => 0xdac127e0#32 ||| placeLow rd
  | .pacdza rd => 0xdac12be0#32 ||| placeLow rd
  | .pacdzb rd => 0xdac12fe0#32 ||| placeLow rd
  | .pacia1716 => 0xd503211f#32
  | .pacib1716 => 0xd503215f#32
  | .paciaz => 0xd503231f#32
  | .paciasp => 0xd503233f#32
  | .pacibz => 0xd503235f#32
  | .pacibsp => 0xd503237f#32
  | .paciasppc => 0xdac1a3fe#32
  | .autia rd rn => 0xdac11000#32 ||| placeLow rd ||| placeMid rn
  | .autib rd rn => 0xdac11400#32 ||| placeLow rd ||| placeMid rn
  | .autda rd rn => 0xdac11800#32 ||| placeLow rd ||| placeMid rn
  | .autdb rd rn => 0xdac11c00#32 ||| placeLow rd ||| placeMid rn
  | .autiza rd => 0xdac133e0#32 ||| placeLow rd
  | .autizb rd => 0xdac137e0#32 ||| placeLow rd
  | .autdza rd => 0xdac13be0#32 ||| placeLow rd
  | .autdzb rd => 0xdac13fe0#32 ||| placeLow rd
  | .autia1716 => 0xd503219f#32
  | .autib1716 => 0xd50321df#32
  | .autiaz => 0xd503239f#32
  | .autiasp => 0xd50323bf#32
  | .autibz => 0xd50323df#32
  | .autibsp => 0xd50323ff#32
  | .xpaci rd => 0xdac143e0#32 ||| placeLow rd
  | .xpacd rd => 0xdac147e0#32 ||| placeLow rd
  | .xpaclri => 0xd50320ff#32
  | .pacga rd rn rm => 0x9ac03000#32 ||| placeLow rd ||| placeMid rn ||| placeHigh rm
  | .braa rn rm => 0xd71f0800#32 ||| placeMid rn ||| placeLow rm
  | .brab rn rm => 0xd71f0c00#32 ||| placeMid rn ||| placeLow rm
  | .braaz rn => 0xd61f081f#32 ||| placeMid rn
  | .brabz rn => 0xd61f0c1f#32 ||| placeMid rn
  | .blraa rn rm => 0xd73f0800#32 ||| placeMid rn ||| placeLow rm
  | .blrab rn rm => 0xd73f0c00#32 ||| placeMid rn ||| placeLow rm
  | .blraaz rn => 0xd63f081f#32 ||| placeMid rn
  | .blrabz rn => 0xd63f0c1f#32 ||| placeMid rn
  | .retaa => 0xd65f0bff#32
  | .retab => 0xd65f0fff#32
  | .ret rn => 0xd65f0000#32 ||| placeMid rn
  | .eretaa => 0xd69f0bff#32
  | .eretab => 0xd69f0fff#32
  | .ldraaOffset rt rn offset => 0xf8200400#32 ||| placeLow rt ||| placeMid rn ||| placeOffset offset
  | .ldraaPre rt rn offset => 0xf8200c00#32 ||| placeLow rt ||| placeMid rn ||| placeOffset offset
  | .ldrabOffset rt rn offset => 0xf8a00400#32 ||| placeLow rt ||| placeMid rn ||| placeOffset offset
  | .ldrabPre rt rn offset => 0xf8a00c00#32 ||| placeLow rt ||| placeMid rn ||| placeOffset offset
  | .pacm => 0xd50324ff#32
  | .nop => 0xd503201f#32

/-- The instruction the decoder reads from the `nbits` low bits of `w`, laid out as the hardware stores a word. -/
def decodeTableWord (nbits w : Nat) : Option Instr :=
  match decode (bytesOfWord (BitVec.ofNat 32 (w % 2 ^ nbits))) with
  | .ok (i, _) => some i
  | .error _ => none

end Sys2Proof
end

