-- ==== Sys2Proof/Machine/Bits.lean ====
section
/-! DEFINITION. Bit-field and byte-order helpers: the slices, replication and masks of 00_scope.md R11 and R12. -/

namespace Sys2Proof.Machine

open Sys2Proof

/-- A 1 in every position of the slice [hi:lo], nothing when hi < lo (R11, R107). -/
def sliceMask (hi lo : Nat) : Word :=
  (BitVec.allOnes 64 >>> (63 - hi)) &&& (BitVec.allOnes 64 <<< lo)

/-- Replicate(b, 64) (R12). -/
def replicateBit (b : Bool) : Word := if b then BitVec.allOnes 64 else 0#64

/-- `w` with the bits of `mask` taken from copies of `b` and the rest kept. -/
def fillBits (w mask : Word) (b : Bool) : Word := (w &&& ~~~mask) ||| (replicateBit b &&& mask)

/-- `w` with bit `i` set to `b`. -/
def setBit (w : Word) (i : Nat) (b : Bool) : Word := fillBits w (1#64 <<< i) b

/-- The number whose bytes are `bytes`, the first the least significant (R63). -/
def natOfBytesLE : List Byte → Nat
  | [] => 0
  | b :: rest => b.toNat + 256 * natOfBytesLE rest

end Sys2Proof.Machine
end

