-- ==== Sys2Proof/Config.lean ====
section
/-! DEFINITION. What an implementation fixes (00_scope.md R4, R7 to R10; R41) as plain data over which
every statement quantifies, and the values the spec leaves open as constants with no body. -/

namespace Sys2Proof

/-- The feature ladder of pointer authentication (R4, R7, R245, D30): each rung includes the lower ones,
except that FEAT_PAuth2 drops FEAT_EPAC. An inconsistent choice of features has no value of this type.
PRESUMED (the dependencies are not in the source). -/
inductive PacLevel where
  | pauth        -- FEAT_PAuth only
  | epac         -- FEAT_EPAC
  | pauth2       -- FEAT_PAuth2
  | fpac         -- FEAT_PAuth2 and FEAT_FPAC
  | fpacCombine  -- FEAT_PAuth2, FEAT_FPAC and FEAT_FPACCOMBINE
  deriving DecidableEq, Repr

/-- The three ways to generate a PAC (R112). -/
inductive PacAlgorithm where
  | qarma5
  | qarma3
  | imp
  deriving DecidableEq, Repr

/-- PACMImpl of R9. -/
inductive PacmImpl where
  | trivial
  | full
  deriving DecidableEq, Repr

/-- The algorithm of the instructions other than PACGA. PSTATE.PACM may be a trivial implementation
only under an IMPLEMENTATION DEFINED algorithm (R9, R223), so only `imp` carries the choice. -/
inductive PacMethod where
  | qarma5
  | qarma3
  | imp (pacm : PacmImpl)
  deriving DecidableEq, Repr

/-- Which of the three permitted results an out-of-range TnSZ has (R110). -/
inductive TnszOutOfRange where
  | written
  | min
  | max
  deriving DecidableEq, Repr

/-- What an 8-byte load at an address that is not a multiple of 8 does: R64 leaves open whether the chip
performs, splits or faults it (performing and splitting read the same bytes here). DESIGN CHOICE, log 18. -/
inductive MisalignedLoad where
  | performs
  | faults
  deriving DecidableEq, Repr

/-- The implementation and the surrounding machine's fixed facts (00_scope.md section 4). -/
structure Config where
  /-- FEAT_PAuth, FEAT_EPAC, FEAT_PAuth2, FEAT_FPAC, FEAT_FPACCOMBINE (R4, R7). -/
  level : PacLevel
  /-- FEAT_PACQARMA5, FEAT_PACQARMA3 or FEAT_PACIMP for all but PACGA, with PACMImpl (R9, R112). -/
  method : PacMethod
  /-- The algorithm of PACGA (R112). -/
  generic : PacAlgorithm
  /-- FEAT_CONSTPACFIELD (R103). -/
  constPacField : Bool
  /-- FEAT_LVA3 (R109). -/
  lva3 : Bool
  /-- FEAT_PAuth_LR (45_pacm.md). -/
  pauthLR : Bool
  /-- FEAT_FPACC_SPEC; no rule of the model reads it (R37). -/
  fpaccSpec : Bool
  /-- EL2 is implemented (D4). -/
  haveEL2 : Bool
  /-- EL3 is implemented (D4). -/
  haveEL3 : Bool
  /-- EL2, where implemented, is enabled (R224, R251). -/
  el2Enabled : Bool
  /-- LatEnabled of the range with bit 55 clear (R129). -/
  latLower : Bool
  /-- LatEnabled of the range with bit 55 set (R129). -/
  latUpper : Bool
  /-- TnSZ_min (R110). -/
  tnszMin : BitVec 6
  /-- TnSZ_max (R110). -/
  tnszMax : BitVec 6
  /-- TnSZ_oor (R110). -/
  tnszOor : TnszOutOfRange
  /-- PASize; no rule of the model reads it (R61). -/
  paSize : Nat
  /-- The IMPLEMENTATION DEFINED reset address, readable in RVBAR_ELx (R38, R281). -/
  resetAddress : Word
  /-- Vector offset of a synchronous exception taken from the same level using SP_EL0 (R254). -/
  vectorSameSp0 : Word
  /-- Vector offset of a synchronous exception taken from the same level using SP_ELx (R254). -/
  vectorSameSpx : Word
  /-- Vector offset of a synchronous exception taken from a lower level (R254). -/
  vectorLower : Word
  /-- A load at an address that is not a multiple of 8 (R64). -/
  misalignedLoad : MisalignedLoad
  deriving DecidableEq, Repr

/-- The configuration of the machine right after reset. DESIGN CHOICE, log 1: the spec names no chip and leaves
the fields OPEN; of the values below only LatEnabled's is a default of the spec (D5).
Features and algorithms (R7, D2, D3, D28): the rung FEAT_FPACCOMBINE, with FEAT_FPAC and FEAT_PAuth2 under it;
FEAT_PAuth_LR, which brings PACM and PACIASPPC; no FEAT_CONSTPACFIELD, FEAT_LVA3 or FEAT_FPACC_SPEC; QARMA5 for PACGA
and for the others, PSTATE.PACM then being full.
Levels and translation context (R10, D4, D5, D7): EL2 and EL3 exist and EL2 is enabled; no logical address tagging (D5's
default); TnSZ_min 16 and TnSZ_max 39 (two of D7's typical values); TnSZ_oor is `min`, where D7's default is to refuse (log 7);
PASize 48, which no rule reads (log 37).
The rest: reset address 0 (R38, log 3), the family's vector offsets (R254, log 9), a misaligned load performed (R64,
log 18). -/
def Config.initial : Config where
  level := .fpacCombine
  method := .qarma5
  generic := .qarma5
  constPacField := false
  lva3 := false
  pauthLR := true
  fpaccSpec := false
  haveEL2 := true
  haveEL3 := true
  el2Enabled := true
  latLower := false
  latUpper := false
  tnszMin := 16#6
  tnszMax := 39#6
  tnszOor := .min
  paSize := 48
  resetAddress := 0#64
  vectorSameSp0 := 0x000#64
  vectorSameSpx := 0x200#64
  vectorLower := 0x400#64
  misalignedLoad := .performs

/-- Every field of a syndrome register that R244 names. -/
structure Syndrome where
  /-- Exception class, ESR_ELx[31:26] (R35). -/
  ec : BitVec 6
  /-- Instruction length bit (R244). -/
  il : Bool
  /-- Instruction specific syndrome, 25 bits (R244). -/
  iss : BitVec 25
  deriving DecidableEq, Repr, Inhabited

/-- ComputePAC of R8 for each algorithm: data, modifier, key. Nothing is known of it but that it is a
function of its arguments (R113). -/
opaque Config.computePAC : PacAlgorithm → Word → Word → PacKey → Word

/-- ComputePACG of R8, the algorithm of PACGA: two data words and the generic key. -/
opaque Config.computePACG : PacAlgorithm → Word → Word → PacKey → Word

/-- ComputePAC2 under FEAT_PACIMP (R8, R114): data, two modifiers, key. -/
opaque Config.computePAC2Imp : Word → Word → Word → PacKey → Word

/-- ComputePAC2_explicit under FEAT_PACIMP, which PACIASPPC calls (R8, R227). -/
opaque Config.computePAC2ExplicitImp : Word → Word → Word → PacKey → Word

/-- FREE VALUE, log 12 and 13: a syndrome, or the part of one, that the spec does not state. -/
opaque Config.freeSyndrome : Nat → Syndrome

/-- FREE VALUE, log 6: the extension bit of a PAC field that reaches above bit 52 in a regime with a
single VA range, which the spec does not state (R109, 90_conflicts.md C8). -/
opaque Config.freeExtBit : Nat → Bool

/-- FREE VALUE, log 6: the PAC field of a pointer whose check fails with bottom_PAC_bit above 52, where the spec does not
define Auth (R109, D9). -/
opaque Config.freeFailure : Nat → Word

/-- FREE VALUE, log 35: the identification value of a PE with FEAT_PAuth_LR and a rung of the ladder below
FEAT_FPACCOMBINE, for which R40 lists no value. -/
opaque Config.freeIdValue : PacLevel → BitVec 4

/-- FREE VALUE, log 38: the bit of HCRX_EL2 that is PACMEn, which R40 leaves OPEN ("not recalled"). -/
opaque Config.pacmEnPosition : Fin 64

end Sys2Proof
end

