-- ==== Sys2Proof/Machine/Features.lean ====
section
/-! DEFINITION. What the configuration says, feature by feature (00_scope.md R4, R7 to R10): the reading of Config
that the rest of the machine is written from. -/

namespace Sys2Proof

/-- FEAT_EPAC acts: it is implemented and FEAT_PAuth2 is not (R118, D27, D30). -/
def Config.featEPAC (c : Config) : Bool :=
  match c.level with
  | .epac => true
  | .pauth | .pauth2 | .fpac | .fpacCombine => false

/-- FEAT_PAuth2 (R7). -/
def Config.featPAuth2 (c : Config) : Bool :=
  match c.level with
  | .pauth2 | .fpac | .fpacCombine => true
  | .pauth | .epac => false

/-- FEAT_FPAC (R243). -/
def Config.featFPAC (c : Config) : Bool :=
  match c.level with
  | .fpac | .fpacCombine => true
  | .pauth | .epac | .pauth2 => false

/-- FEAT_FPACCOMBINE (R242). -/
def Config.featFPACCOMBINE (c : Config) : Bool :=
  match c.level with
  | .fpacCombine => true
  | .pauth | .epac | .pauth2 | .fpac => false

/-- The algorithm a method names (R112). -/
def PacMethod.algorithm : PacMethod → PacAlgorithm
  | .qarma5 => .qarma5
  | .qarma3 => .qarma3
  | .imp _ => .imp

/-- PSTATE.PACM is a trivial implementation (R9, R223). -/
def Config.pacmTrivial (c : Config) : Bool :=
  match c.method with
  | .imp .trivial => true
  | .imp .full | .qarma5 | .qarma3 => false

/-- EL2 is implemented and enabled (R224, R251). -/
def Config.el2On (c : Config) : Bool := c.haveEL2 && c.el2Enabled

/-- TnSZ_min as R109 bounds it: a value below 12 requires FEAT_LVA3. -/
def Config.tnszLeast (c : Config) : Nat :=
  if c.lva3 then c.tnszMin.toNat else Nat.max 12 c.tnszMin.toNat

end Sys2Proof
end

