-- ==== Sys2Proof/Machine/State.lean ====
section
/-! DEFINITION. The machine's state as plain data, the ways a step can stop, and the state after reset.
Each field cites the rule that names it; INVENTORY.md lists them with their reset values. -/

namespace Sys2Proof.Machine

open Sys2Proof

/-- An Exception level (R23, R250). -/
inductive EL where
  | el0
  | el1
  | el2
  | el3
  deriving DecidableEq, Repr

/-- PSTATE.EL as two bits: EL0 is 0b00, EL3 is 0b11 (R23). -/
def EL.bits : EL → BitVec 2
  | .el0 => 0#2
  | .el1 => 1#2
  | .el2 => 2#2
  | .el3 => 3#2

/-- A level that has control and exception registers of its own: the x of REG_ELx (R29, R254). -/
inductive CtlLevel where
  | el1
  | el2
  | el3
  deriving DecidableEq, Repr

/-- The Exception level of a control level. -/
def CtlLevel.toEL : CtlLevel → EL
  | .el1 => .el1
  | .el2 => .el2
  | .el3 => .el3

/-- A register with one copy for each of EL1, EL2 and EL3: `r.el2` is REG_EL2. -/
structure PerLevel (α : Type) where
  el1 : α
  el2 : α
  el3 : α
  deriving DecidableEq, Repr

/-- Process state (R23 to R25, R254). SPSR_ELx holds one of these (R33). -/
structure ProcState where
  /-- N, Z, C, V; no instruction of the spec reads or writes them (R25). -/
  nzcv : BitVec 4
  /-- Interrupt masks (R254, "interrupts masked"). -/
  daif : BitVec 4
  /-- PSTATE.EL (R23). -/
  el : EL
  /-- Selects SP_ELx (true) or SP_EL0 (false) above EL0 (R21, R254). -/
  spSel : Bool
  /-- PSTATE.PACM (R24). -/
  pacm : Bool
  deriving DecidableEq, Repr

/-- The stack pointers (R21). -/
structure StackPointers where
  el0 : Word
  el1 : Word
  el2 : Word
  el3 : Word
  deriving DecidableEq, Repr

/-- The ten key registers, one copy for all Exception levels (R26, R27). -/
structure KeyRegs where
  apiaKeyLo : Word
  apiaKeyHi : Word
  apibKeyLo : Word
  apibKeyHi : Word
  apdaKeyLo : Word
  apdaKeyHi : Word
  apdbKeyLo : Word
  apdbKeyHi : Word
  apgaKeyLo : Word
  apgaKeyHi : Word
  deriving DecidableEq, Repr

/-- The fields of SCTLR_ELx that enable the four pointer keys (R29). -/
structure Sctlr where
  enIA : Bool
  enIB : Bool
  enDA : Bool
  enDB : Bool
  deriving DecidableEq, Repr

/-- The fields of TCR_ELx (R30, R40): `tbi` and `tbid` are those of a regime with a single VA range,
`tbi0` to `tbid1` those of a regime with two. -/
structure Tcr where
  t0sz : BitVec 6
  t1sz : BitVec 6
  tbi0 : Bool
  tbi1 : Bool
  tbid0 : Bool
  tbid1 : Bool
  tbi : Bool
  tbid : Bool
  deriving DecidableEq, Repr

/-- The fields of SCTLR2_ELx (R31). -/
structure Sctlr2 where
  enPACM : Bool
  enPACM0 : Bool
  deriving DecidableEq, Repr

/-- HCRX_EL2 (R32). -/
structure HcrxEl2 where
  pacmEn : Bool
  deriving DecidableEq, Repr

/-- The fields of HCR_EL2 the spec names (R244, R251, R252). -/
structure HcrEl2 where
  /-- 0 traps PAC instructions of EL0 and EL1 to EL2 (R252). -/
  api : Bool
  /-- Traps key register accesses, of which the spec has none (R252). -/
  apk : Bool
  /-- Host mode, with `tge` (R251). -/
  e2h : Bool
  /-- Routes the exceptions of EL0 to EL2 (R244). -/
  tge : Bool
  deriving DecidableEq, Repr

/-- The fields of SCR_EL3 the spec names (R252). -/
structure ScrEl3 where
  /-- 0 traps PAC instructions of EL0, EL1 and EL2 to EL3 (R252). -/
  api : Bool
  /-- Traps key register accesses, of which the spec has none (R252). -/
  apk : Bool
  deriving DecidableEq, Repr

/-- Byte memory over 64-bit addresses (R36), as the listed bytes in rising order of address; what an
unlisted address reads as is Memory.unlisted (log 21). -/
abbrev Memory := List Host.Cell

/-- The state of one PE. -/
structure State where
  /-- X0 to X30 (R20). -/
  x : Vector Word 31
  /-- SP_EL0 to SP_EL3 (R21). -/
  sps : StackPointers
  /-- The address of the instruction about to be executed (R13, R22). -/
  pc : Word
  /-- PSTATE (R23 to R25). -/
  pstate : ProcState
  /-- APIAKey to APGAKey (R26). -/
  keys : KeyRegs
  /-- SCTLR_EL1, SCTLR_EL2, SCTLR_EL3 (R29). -/
  sctlr : PerLevel Sctlr
  /-- TCR_EL1, TCR_EL2, TCR_EL3 (R30). -/
  tcr : PerLevel Tcr
  /-- SCTLR2_EL1, SCTLR2_EL2, SCTLR2_EL3 (R31). -/
  sctlr2 : PerLevel Sctlr2
  /-- HCRX_EL2 (R32). -/
  hcrxEl2 : HcrxEl2
  /-- HCR_EL2 (R244, R251, R252). -/
  hcrEl2 : HcrEl2
  /-- SCR_EL3 (R252). -/
  scrEl3 : ScrEl3
  /-- ELR_EL1, ELR_EL2, ELR_EL3 (R244, R254). -/
  elr : PerLevel Word
  /-- SPSR_EL1, SPSR_EL2, SPSR_EL3 (R33, R254). -/
  spsr : PerLevel ProcState
  /-- ESR_EL1, ESR_EL2, ESR_EL3 (R35, R244). -/
  esr : PerLevel Syndrome
  /-- FAR_EL1, FAR_EL2, FAR_EL3 (R246, R254). -/
  far : PerLevel Word
  /-- VBAR_EL1, VBAR_EL2, VBAR_EL3 (R254). -/
  vbar : PerLevel Word
  /-- DSPSR_EL0.PACM (R33, R258); nothing in scope reads or writes it. -/
  dspsrEl0Pacm : Bool
  /-- Memory (R36). -/
  mem : Memory
  /-- The model's own counter, which the free values of Config are applied to (log 31). -/
  freeIdx : Nat
  /-- The configuration (R41): no step changes it (log 1). -/
  cfg : Config
  deriving DecidableEq, Repr

/-- A stop of the machine where the spec gives an access no effect. -/
inductive Fault where
  /-- Raised by step at a canonical pc that is not a multiple of 4: the spec admits no such fetch and says
  nothing of what it does (R64, R190). Safe: the machine does something where the model stops (log 19). -/
  | misalignedFetch (pc : Word)
  deriving DecidableEq, Repr

/-- A stop of the model where the spec gives no meaning. -/
inductive Refusal where
  /-- Raised by exec for an instruction that has no meaning in the model. Safe. -/
  | notModelled (mnemonic : String)
  /-- Raised by step: the word at the pc is an instruction of the surrounding machine (00_scope.md section 3), or one of
FEAT_PAuth_LR that D34 leaves out: "not an instruction of this spec, which the model refuses" (R90). Safe. -/
  | notInSpec (w : InstrWord)
  /-- Raised by a pre-indexed LDRAA or LDRAB whose base is its destination: CONSTRAINED UNPREDICTABLE
  with no effect listed (R206, D25). Safe. -/
  | writebackToDestination (r : RegNum)
  deriving DecidableEq, Repr

/-- PSTATE after reset (R38, R281; the family's masks and stack selection, log 3). -/
def ProcState.reset : ProcState where
  nzcv := 0#4
  daif := 0b1111#4
  el := .el3
  spSel := true
  pacm := false

/-- A saved PSTATE whose bits are all zero (DESIGN CHOICE, log 2). -/
def ProcState.zero : ProcState where
  nzcv := 0#4
  daif := 0#4
  el := .el0
  spSel := false
  pacm := false

/-- Three copies of one value. -/
def PerLevel.all {α : Type} (a : α) : PerLevel α := ⟨a, a, a⟩

/-- The state right after reset. The spec gives no reset value (R38, R280): every value is the model's,
DESIGN CHOICE zero (log 2) or PRESUMED the family's (log 3). Memory lists nothing. -/
def State.reset : State where
  x := Vector.replicate 31 0#64
  sps := ⟨0#64, 0#64, 0#64, 0#64⟩
  pc := Config.initial.resetAddress
  pstate := ProcState.reset
  keys := ⟨0#64, 0#64, 0#64, 0#64, 0#64, 0#64, 0#64, 0#64, 0#64, 0#64⟩
  sctlr := PerLevel.all ⟨false, false, false, false⟩
  tcr := PerLevel.all ⟨0#6, 0#6, false, false, false, false, false, false⟩
  sctlr2 := PerLevel.all ⟨false, false⟩
  hcrxEl2 := ⟨false⟩
  hcrEl2 := ⟨false, false, false, false⟩
  scrEl3 := ⟨false, false⟩
  elr := PerLevel.all 0#64
  spsr := PerLevel.all ProcState.zero
  esr := PerLevel.all ⟨0#6, false, 0#25⟩
  far := PerLevel.all 0#64
  vbar := PerLevel.all 0#64
  dspsrEl0Pacm := false
  mem := []
  freeIdx := 0
  cfg := Config.initial

end Sys2Proof.Machine
end

