-- ==== Sys2Proof/Machine/Operands.lean ====
section
/-! DEFINITION. Reading and writing registers: X0 to X30, register number 31 as XZR or SP (10_state.md R20,
R21; 30_encoding.md R87; the notation `xzr[i]`, `xsp[i]` of 00_scope.md R13), and banked registers. -/

namespace Sys2Proof.Machine

open Sys2Proof

/-- The control level whose ELR and SPSR belong to an Exception level; EL0 has none (R202). -/
def EL.ownLevel : EL → Option CtlLevel
  | .el0 => none
  | .el1 => some .el1
  | .el2 => some .el2
  | .el3 => some .el3

/-- REG_ELx. -/
def PerLevel.get {α : Type} (r : PerLevel α) : CtlLevel → α
  | .el1 => r.el1
  | .el2 => r.el2
  | .el3 => r.el3

/-- REG_ELx <- v. -/
def PerLevel.set {α : Type} (r : PerLevel α) (l : CtlLevel) (v : α) : PerLevel α :=
  match l with
  | .el1 => { r with el1 := v }
  | .el2 => { r with el2 := v }
  | .el3 => { r with el3 := v }

/-- Register `i` of the file, 0 for number 31. -/
def readX (x : Vector Word 31) (i : RegNum) : Word :=
  if h : i.toNat < 31 then x[i.toNat] else 0#64

/-- The file with register `i` replaced; a write to number 31 is discarded. -/
def writeX (x : Vector Word 31) (i : RegNum) (v : Word) : Vector Word 31 :=
  if h : i.toNat < 31 then x.set i.toNat v else x

/-- The level whose stack pointer is the current one (R21, log 10). -/
def ProcState.spLevel (p : ProcState) : EL := if p.spSel then p.el else .el0

/-- SP_ELx. -/
def StackPointers.get (r : StackPointers) : EL → Word
  | .el0 => r.el0
  | .el1 => r.el1
  | .el2 => r.el2
  | .el3 => r.el3

/-- SP_ELx <- v. -/
def StackPointers.set (r : StackPointers) (l : EL) (v : Word) : StackPointers :=
  match l with
  | .el0 => { r with el0 := v }
  | .el1 => { r with el1 := v }
  | .el2 => { r with el2 := v }
  | .el3 => { r with el3 := v }

/-- `sp` (R13, R21). -/
def State.sp (s : State) : Word := s.sps.get s.pstate.spLevel

/-- `sp <- v` (R13). -/
def State.setSp (s : State) (v : Word) : State := { s with sps := s.sps.set s.pstate.spLevel v }

/-- `xzr[i]`: register number 31 reads as zero (R13, R87). -/
def State.xzr (s : State) (i : RegNum) : Word := readX s.x i

/-- `x[i] <- v`: a write to number 31 is discarded (R13, R87). -/
def State.setXzr (s : State) (i : RegNum) (v : Word) : State := { s with x := writeX s.x i v }

/-- `xsp[i]`: register number 31 is the current stack pointer (R13, R87). -/
def State.xsp (s : State) (i : RegNum) : Word := if i = 31#5 then s.sp else s.xzr i

/-- `xsp[i] <- v`, the base writeback of a pre-indexed load (R206). -/
def State.setXsp (s : State) (i : RegNum) (v : Word) : State :=
  if i = 31#5 then s.setSp v else s.setXzr i v

/-- X15, modifier2 of the 1716 forms (R226). -/
def regX15 : RegNum := 15#5

/-- X16, the modifier of the 1716 forms and modifier2 of AUTIASP, AUTIBSP, RETAA, RETAB (R20, R226). -/
def regX16 : RegNum := 16#5

/-- X17, the pointer of the 1716 forms (R20). -/
def regX17 : RegNum := 17#5

/-- X30, the link register (R20). -/
def regLR : RegNum := 30#5

end Sys2Proof.Machine
end

