-- ==== Sys2Proof/Machine/Regime.lean ====
section
/-! DEFINITION. Which control registers apply and what they say: CtlEL, SingleRange (60_exceptions.md R251),
keys and enables (40 R115), traps (60 R252), tagging (40 R129), TnSZ (40 R101, R110) and the canonical
form of an address (20_memory.md R73). -/

namespace Sys2Proof.Machine

open Sys2Proof

/-- The four pointer keys (R115). -/
inductive KeyName where
  | ia
  | ib
  | da
  | db
  deriving DecidableEq, Repr

/-- is_instr(k): an instruction address key (R115). -/
def KeyName.isInstr : KeyName → Bool
  | .ia | .ib => true
  | .da | .db => false

/-- key_number(k): 0 for an A key, 1 for a B key (R115). -/
def KeyName.number : KeyName → Bool
  | .ia | .da => false
  | .ib | .db => true

/-- Key(k), the Hi register in bits [127:64] and the Lo register in bits [63:0] (R26, R115). -/
def KeyRegs.key (r : KeyRegs) : KeyName → PacKey
  | .ia => r.apiaKeyHi ++ r.apiaKeyLo
  | .ib => r.apibKeyHi ++ r.apibKeyLo
  | .da => r.apdaKeyHi ++ r.apdaKeyLo
  | .db => r.apdbKeyHi ++ r.apdbKeyLo

/-- APGAKey_EL1 (R26). -/
def KeyRegs.genericKey (r : KeyRegs) : PacKey := r.apgaKeyHi ++ r.apgaKeyLo

/-- The bit of SCTLR_ELx that enables a key (R29). -/
def Sctlr.enable (r : Sctlr) : KeyName → Bool
  | .ia => r.enIA
  | .ib => r.enIB
  | .da => r.enDA
  | .db => r.enDB

/-- HCR_EL2.E2H, false without EL2 (R251), and where EL2 is not enabled (PRESUMED, log 15). -/
def State.e2h (s : State) : Bool := s.cfg.el2On && s.hcrEl2.e2h

/-- HostMode: HCR_EL2.{E2H, TGE} are both 1 and EL2 is enabled (R251). -/
def State.hostMode (s : State) : Bool := s.cfg.el2On && s.hcrEl2.e2h && s.hcrEl2.tge

/-- CtlEL(el): the level whose SCTLR, TCR and SCTLR2 apply at `el` (R251). -/
def State.ctlEL (s : State) : EL → CtlLevel
  | .el3 => .el3
  | .el2 => .el2
  | .el1 => .el1
  | .el0 => if s.hostMode then .el2 else .el1

/-- CtlEL(PSTATE.EL). -/
def State.ctl (s : State) : CtlLevel := s.ctlEL s.pstate.el

/-- SingleRange: the regime of EL3, or of EL2 with E2H = 0, has a single VA range (R251). -/
def State.singleRange (s : State) : Bool :=
  match s.ctl with
  | .el3 => true
  | .el2 => !s.e2h
  | .el1 => false

/-- Enabled(k) (R115). -/
def State.enabled (s : State) (k : KeyName) : Bool := (s.sctlr.get s.ctl).enable k

/-- TrapPAC: the level a PAC instruction executed now traps to (R252). HCR_EL2.API is looked at before
SCR_EL3.API (PRESUMED, log 14). -/
def State.trapPAC (s : State) : Option CtlLevel :=
  let lower := decide (s.pstate.el = .el0) || decide (s.pstate.el = .el1)
  if lower && s.cfg.el2On && !s.hostMode && !s.hcrEl2.api then some .el2
  else if decide (s.pstate.el ≠ .el3) && s.cfg.haveEL3 && !s.scrEl3.api then some .el3
  else none

/-- TCR_EL<CtlEL(PSTATE.EL)> (R100). -/
def State.tcrNow (s : State) : Tcr := s.tcr.get s.ctl

/-- TagUsed(n, is_instr), n given as a bit (R129): address tagging is used. -/
def State.tagUsed (s : State) (n isInstr : Bool) : Bool :=
  if s.singleRange then s.tcrNow.tbi && !(isInstr && s.tcrNow.tbid)
  else if n then s.tcrNow.tbi1 && !(isInstr && s.tcrNow.tbid1)
  else s.tcrNow.tbi0 && !(isInstr && s.tcrNow.tbid0)

/-- LatUsed(n, is_instr): logical address tagging is used (R129). -/
def State.latUsed (s : State) (n : Bool) : Bool := if n then s.cfg.latUpper else s.cfg.latLower

/-- EffTnSZ(n) (R109, R110). -/
def State.effTnSZ (s : State) (n : Bool) : Nat :=
  let v := (if n then s.tcrNow.t1sz else s.tcrNow.t0sz).toNat
  if s.cfg.tnszLeast ≤ v ∧ v ≤ s.cfg.tnszMax.toNat then v
  else match s.cfg.tnszOor with
    | .written => v
    | .min => s.cfg.tnszLeast
    | .max => s.cfg.tnszMax.toNat

/-- bottom_PAC_bit for range n (R101). -/
def State.bottomBit (s : State) (n : Bool) : Nat := 64 - s.effTnSZ n

/-- The VA range a pointer names with bit 55; a regime with a single range has only range 0 (R116). -/
def State.rangeOf (s : State) (addr : Word) : Bool := !s.singleRange && addr.getLsbD 55

/-- The bits of an address that the canonical test looks at (R73). -/
def State.checkedBits (s : State) (addr : Word) (isInstr : Bool) : Word :=
  let n := s.rangeOf addr
  let b := s.bottomBit n
  if s.tagUsed n isInstr then sliceMask 55 b
  else if s.latUsed n then sliceMask 63 60 ||| sliceMask 55 b
  else sliceMask 63 b

/-- IsCanonical(addr, is_instr) (R73): every checked bit equals bit 55, and is 0 in a regime with a single
VA range. -/
def State.isCanonical (s : State) (addr : Word) (isInstr : Bool) : Bool :=
  let checked := s.checkedBits addr isInstr
  decide (addr &&& checked = replicateBit (addr.getLsbD 55) &&& checked) &&
    (!s.singleRange || decide (addr &&& checked = 0#64))

/-- The place in memory that a canonical address names: its tag bits take no part in the lookup, and stand
as copies of bit 55 (R71; log 23). -/
def State.place (s : State) (addr : Word) (isInstr : Bool) : Word :=
  let n := s.rangeOf addr
  if s.tagUsed n isInstr then fillBits addr (sliceMask 63 56) (addr.getLsbD 55)
  else if s.latUsed n then fillBits addr (sliceMask 59 56) (addr.getLsbD 55)
  else addr

end Sys2Proof.Machine
end

