-- ==== Sys2Proof/Machine/Flags.lean ====
section
/-! DEFINITION. The one flag of this hardware, PSTATE.PACM (45_pacm.md); the condition flags are neither
read nor written by any instruction (10_state.md R25). -/

namespace Sys2Proof.Machine

open Sys2Proof

/-- EL2Gates: EL2 is implemented and enabled and the PE is not in host mode (R224). -/
def State.el2Gates (s : State) : Bool := s.cfg.el2On && !s.hostMode

/-- PACMEnabled(el): the effects of PACM are enabled at `el` (R223, R224); false without FEAT_PAuth_LR,
where there is no PSTATE.PACM (R24). DESIGN CHOICE, log 16: the fields of SCTLR2_ELx and HCRX_EL2 are read as they stand,
that is, the registers are taken as enabled; R224 puts the higher-level controls that could disable one, so that it would
read as 0 here, outside the source. -/
def State.pacmEnabled (s : State) (el : EL) : Bool :=
  s.cfg.pauthLR && !s.cfg.pacmTrivial &&
    match el with
    | .el3 => s.sctlr2.el3.enPACM
    | .el2 => s.sctlr2.el2.enPACM
    | .el1 => (!s.el2Gates || s.hcrxEl2.pacmEn) && s.sctlr2.el1.enPACM
    | .el0 => (!s.el2Gates || s.hcrxEl2.pacmEn) && (s.sctlr2.get (s.ctlEL .el0)).enPACM0

/-- PSTATE.PACM as the ten extended instructions read it: 0 without FEAT_PAuth_LR (R225) and 0 on a
trivial implementation (R223). -/
def State.pacmNow (s : State) : Bool :=
  s.cfg.pauthLR && !s.cfg.pacmTrivial && s.pstate.pacm

/-- The modifiers of a PAC computation (R114, R124). -/
inductive Modifiers where
  /-- One modifier, for ComputePAC. -/
  | one (m1 : Word)
  /-- Two modifiers, for ComputePAC2 (R225). -/
  | two (m1 m2 : Word)
  /-- Two modifiers of PACIASPPC, for ComputePAC2_explicit (R155, R227). -/
  | explicit (m1 m2 : Word)
  deriving DecidableEq, Repr

/-- The modifiers of an instruction that PSTATE.PACM extends: PacmM2 (R225). -/
def State.pacmModifiers (s : State) (m1 m2 : Word) : Modifiers :=
  if s.pacmNow then .two m1 m2 else .one m1

end Sys2Proof.Machine
end

