-- ==== Sys2Proof/Machine/Pac.lean ====
section
/-! DEFINITION. The PAC field and the functions every PAC instruction shares
(40_pac_field_and_functions.md): PACFieldMask, Div2, Ctx, AddPAC, CorruptPAC, Auth, Strip, AddPACGA.
Each takes the PAC computation as a function, so that it can be run with any algorithm. -/

namespace Sys2Proof.Machine

open Sys2Proof

/-- PACFieldMask(b, tbi, lat, single) (R104 to R107). -/
def pacFieldMask (b : Nat) (tbi lat single : Bool) : Word :=
  let wide := decide (52 < b) && single
  let low := sliceMask (if wide then 55 else 54) b
  if tbi then low
  else if lat then sliceMask 63 60 ||| low
  else if wide then sliceMask 63 b
  else sliceMask 63 56 ||| low

/-- The two diversifiers as one: modifier2[36:5] : modifier1[35:4] (R114). -/
def div2 (m1 m2 : Word) : Word := m2.extractLsb' 5 32 ++ m1.extractLsb' 4 32

/-- The PAC of `data` under the implemented algorithm (R114, R124, R155, R227). -/
def computePAC (method : PacMethod) (key : PacKey) (m : Modifiers) (data : Word) : Word :=
  match m with
  | .one m1 => Config.computePAC method.algorithm data m1 key
  | .two m1 m2 =>
    match method with
    | .qarma5 | .qarma3 => Config.computePAC method.algorithm data (div2 m1 m2) key
    | .imp _ => Config.computePAC2Imp data m1 m2 key
  | .explicit m1 m2 =>
    match method with
    | .qarma5 | .qarma3 => Config.computePAC method.algorithm data (div2 m1 m2) key
    | .imp _ => Config.computePAC2ExplicitImp data m1 m2 key

/-- What one PAC operation knows of its pointer (R116). -/
structure PacContext where
  /-- The selection bit, which is the value of the extension bits. -/
  sel : Bool
  /-- bottom_PAC_bit. -/
  bottom : Nat
  /-- F: the PAC field. -/
  field : Word
  /-- E: the positions that hold extension bits in the pointer without its PAC. -/
  ext : Word
  /-- Address tagging is used for the pointer. -/
  tbi : Bool
  deriving DecidableEq, Repr

/-- `top`: 55 with address tagging, else 63 (R116). -/
def PacContext.top (c : PacContext) : Nat := if c.tbi then 55 else 63

/-- The bit of the pointer that selects n: bit 63 on an insertion without FEAT_CONSTPACFIELD where no
range of the regime is tagged, else bit 55 (R102, R103, R116). -/
def State.selectBit (s : State) (ptr : Word) (isInstr inserting : Bool) : Bool :=
  let anyTag := s.tagUsed false isInstr || (!s.singleRange && s.tagUsed true isInstr)
  if inserting && !s.cfg.constPacField && !anyTag then ptr.getLsbD 63 else ptr.getLsbD 55

/-- Ctx(ptr, is_instr, inserting) (R116). Above bottom_PAC_bit 52 the spec's own model refuses (R109, D9):
here the field of R104 to R107 is used, and in a regime with a single range, where bit 55 can hold PAC and
the extension bit is not stated, that bit is a free value (log 6). No position below bottom_PAC_bit belongs to the
field, and above 55 bit 55 is an address bit too (R101). -/
def State.pacContext (s : State) (ptr : Word) (isInstr inserting : Bool) : PacContext :=
  let single := s.singleRange
  let range := s.rangeOf ptr
  let tbi := s.tagUsed range isInstr
  let selected := s.selectBit ptr isInstr inserting
  let b := s.bottomBit (!single && selected)
  let field := pacFieldMask b tbi (s.latUsed range) single &&& sliceMask 63 b
  { sel := if single && decide (52 < b) then Config.freeExtBit s.freeIdx else selected
    bottom := b
    field := field
    ext := if b ≤ 55 then field ||| 1#64 <<< 55 else field
    tbi := tbi }

/-- The pointer with every bit of E set to the selection bit (R117, R119, R121). -/
def PacContext.extend (c : PacContext) (ptr : Word) : Word := fillBits ptr c.ext c.sel

/-- The pointer's bits of E are not all equal (R117, D35). -/
def PacContext.nonCanonical (c : PacContext) (ptr : Word) : Bool :=
  decide (ptr &&& c.ext ≠ 0#64) && decide (ptr &&& c.ext ≠ c.ext)

/-- CorruptPAC(pac, top) (R118). -/
def corruptPAC (cfg : Config) (pac : Word) (top : Nat) : Word :=
  if cfg.featPAuth2 then pac
  else if cfg.featEPAC then 0#64
  else pac ^^^ 1#64 <<< (top - 1)

/-- AddPAC: the signed pointer (R117). Bit 55 receives the selection bit where it is an extension bit that
holds no PAC. -/
def addPAC (cfg : Config) (c : PacContext) (pacOf : Word → Word) (ptr : Word) : Word :=
  let computed := pacOf (c.extend ptr)
  let pac := if c.nonCanonical ptr then corruptPAC cfg computed c.top else computed
  let placed :=
    if cfg.featPAuth2 then ptr ^^^ (pac &&& c.field)
    else (ptr &&& ~~~c.field) ||| (pac &&& c.field)
  fillBits placed (c.ext &&& ~~~c.field) c.sel

/-- What a check of a PAC gives. -/
inductive AuthResult where
  /-- The PAC is correct: the pointer with the PAC replaced by the extension bits. -/
  | correct (ptr : Word)
  /-- The PAC is incorrect: the VA made non-canonical. -/
  | incorrect (ptr : Word)
  deriving DecidableEq, Repr

/-- The error code of a failed check without FEAT_PAuth2, key_number : NOT key_number in bits
[top-1 : top-2] (R119, D11). R109 defines it up to bottom_PAC_bit 52 only: above, where its bits could lie below
bottom_PAC_bit, State.checkPAC puts a free failure value in its place (log 6). -/
def errorCode (c : PacContext) (keyNumber : Bool) (ptr : Word) : Word :=
  setBit (setBit ptr (c.top - 1) keyNumber) (c.top - 2) (!keyNumber)

/-- Auth: check and remove a PAC (R119; R120 with FEAT_PAuth2). -/
def auth (cfg : Config) (c : PacContext) (pacOf : Word → Word) (keyNumber : Bool) (ptr : Word) :
    AuthResult :=
  let orig := c.extend ptr
  let pac := pacOf orig
  if cfg.featPAuth2 then
    let result := ptr ^^^ (pac &&& c.field)
    if result &&& c.field = replicateBit c.sel &&& c.field then .correct result
    else .incorrect result
  else if pac &&& c.field = ptr &&& c.field then .correct orig
  else .incorrect (errorCode c keyNumber orig)

/-- Strip (R121). -/
def State.strip (s : State) (ptr : Word) (isInstr : Bool) : Word :=
  (s.pacContext ptr isInstr false).extend ptr

/-- The 32-bit generic PAC in bits [63:32] over zeros (R122). -/
def genericPAC (p : Word) : Word := p.extractLsb' 32 32 ++ 0#32

end Sys2Proof.Machine
end

