-- ==== Sys2Proof/Machine/Ops.lean ====
section
/-! DEFINITION. The named operations over memory, exceptions and the pc that every meaning is written from:
the memory accesses (20_memory.md), taking an exception and returning from one (60_exceptions.md R244, R254,
R255), Sign and Authenticate (40 R123), and the ends of an instruction (10 R22, 45 R221). -/

namespace Sys2Proof.Machine

open Sys2Proof

/-! ## Memory -/

/-- What an address that is not listed reads as. DESIGN CHOICE, log 21: the spec leaves the contents of
memory at launch to the launch state (R283). -/
def Memory.unlisted : Byte := 0#8

/-- The byte at an address. -/
def Memory.read (m : Memory) (a : Nat) : Byte :=
  match m with
  | [] => Memory.unlisted
  | (k, v) :: rest => if k = a then v else Memory.read rest a

/-- The memory `rest` with the byte `v` listed at `a` in front, unless `a` reads so unlisted. -/
def Memory.place (a : Nat) (v : Byte) (rest : Memory) : Memory :=
  if v = Memory.unlisted then rest else (a, v) :: rest

/-- The memory with one byte written, in rising order of address. -/
def Memory.write (m : Memory) (a : Nat) (v : Byte) : Memory :=
  match m with
  | [] => Memory.place a v []
  | (k, w) :: rest =>
    if a < k then Memory.place a v ((k, w) :: rest)
    else if a = k then Memory.place a v rest
    else (k, w) :: Memory.write rest a v

/-- The memory with consecutive bytes written, the addresses modulo 2^64 (R63). -/
def Memory.writeBytes (m : Memory) (a : Word) : List Byte → Memory
  | [] => m
  | b :: rest => Memory.writeBytes (Memory.write m a.toNat b) (a + 1#64) rest

/-- Every listed address is above `lo`, they rise strictly, and no entry equals what an unlisted address
reads as. -/
def Memory.risesFrom (lo : Nat) : Memory → Bool
  | [] => true
  | (k, v) :: rest => decide (lo < k) && decide (v ≠ Memory.unlisted) && Memory.risesFrom k rest

/-- The canonical form: the listed addresses rise strictly and no entry equals what an unlisted address
reads as. -/
def Memory.wf : Memory → Bool
  | [] => true
  | (k, v) :: rest => decide (v ≠ Memory.unlisted) && Memory.risesFrom k rest

/-- `n` bytes from a place on, the addresses modulo 2^64. -/
def Memory.readBytes (m : Memory) (a : Word) : Nat → List Byte
  | 0 => []
  | n + 1 => Memory.read m a.toNat :: Memory.readBytes m (a + 1#64) n

/-! ## What an operation can end in -/

/-- The exceptions an instruction or a fetch can take (R241, R248). -/
inductive Raise where
  /-- PACFail(code) (R244). -/
  | pacFail (code : BitVec 2)
  /-- VAFault(addr, fetch) (R246). -/
  | fetchFault (addr : Word)
  /-- VAFault(addr, load) (R246). -/
  | loadFault (addr : Word)
  /-- Trap(el) (R252). -/
  | trap (level : CtlLevel)
  /-- UNDEFINED (R241). -/
  | undefined
  /-- The SP alignment check of a load (R64, R248). -/
  | spAlignment
  /-- A misaligned load where the implementation faults it (R64, log 18). -/
  | misalignedLoad (addr : Word)
  deriving DecidableEq, Repr

/-- The result of an operation inside an instruction: a value, or an exception to take. -/
inductive Res (α : Type) where
  | ok (a : α)
  | raised (r : Raise)
  deriving DecidableEq, Repr

/-! ## Taking an exception, and returning from one -/

/-- The level an exception is taken to: a trap names it; else from EL0 it is EL1, or EL2 where HCR_EL2.TGE
routes the exceptions of EL0 there, and from a higher level the same level (R244, R255). R244 names TGE = 1 alone; that
TGE routes only where EL2 is implemented and enabled (`Config.el2On`) is a DESIGN CHOICE, log 8. -/
def State.exceptionTarget (s : State) (r : Raise) : CtlLevel :=
  match r with
  | .trap level => level
  | .pacFail _ | .fetchFault _ | .loadFault _ | .undefined | .spAlignment | .misalignedLoad _ =>
    match s.pstate.el.ownLevel with
    | none => if s.cfg.el2On && s.hcrEl2.tge then .el2 else .el1
    | some level => level

/-- The syndrome of an exception: R244 for PACFail; EC 0b001001 of R252 for a trap and 0b000000 of R241 for
UNDEFINED with the rest free; free for the others (log 12, 13). -/
def State.syndrome (s : State) (r : Raise) : Syndrome :=
  match r with
  | .pacFail code => { ec := 0b011100#6, il := true, iss := code.setWidth 25 }
  | .trap _ => { Config.freeSyndrome s.freeIdx with ec := 0b001001#6 }
  | .undefined => { Config.freeSyndrome s.freeIdx with ec := 0b000000#6 }
  | .fetchFault _ | .loadFault _ | .spAlignment | .misalignedLoad _ => Config.freeSyndrome s.freeIdx

/-- The address an abort records in FAR_ELx (R246, R254). -/
def Raise.faultAddress : Raise → Option Word
  | .fetchFault a | .loadFault a | .misalignedLoad a => some a
  | .pacFail _ | .trap _ | .undefined | .spAlignment => none

/-- FAR_ELx after an exception to a level: written for an abort only (R254). -/
def Raise.farAfter (r : Raise) (far : PerLevel Word) (target : CtlLevel) : PerLevel Word :=
  match r.faultAddress with
  | some a => far.set target a
  | none => far

/-- The offset from VBAR_ELx of a synchronous exception "from the level and stack in use" (R254). -/
def State.vectorOffset (s : State) (target : CtlLevel) : Word :=
  if s.pstate.el = target.toEL then
    if s.pstate.spSel then s.cfg.vectorSameSpx else s.cfg.vectorSameSp0
  else s.cfg.vectorLower

/-- PSTATE on entry to a level: the level itself with its own stack pointer, interrupts masked, PACM 0 (R254). -/
def ProcState.entering (p : ProcState) (target : CtlLevel) : ProcState :=
  { p with daif := 0b1111#4, el := target.toEL, spSel := true, pacm := false }

/-- Taking an exception (R244, R254): SPSR receives PSTATE, ELR the address of the instruction that raised,
ESR the syndrome, FAR the address of an abort; PSTATE enters the target level and the pc goes to its
vector. Nothing else changes but the model's counter. -/
def State.takeException (s : State) (r : Raise) : State :=
  let target := s.exceptionTarget r
  { s with
    spsr := s.spsr.set target s.pstate
    elr := s.elr.set target s.pc
    esr := s.esr.set target (s.syndrome r)
    far := r.farAfter s.far target
    pstate := s.pstate.entering target
    pc := s.vbar.get target + s.vectorOffset target
    freeIdx := s.freeIdx + 1 }

/-- PSTATE after an exception return: the saved one, its PACM only where the effects of PACM are enabled at
the level returned to (R223, R255). -/
def State.returnedPstate (s : State) (saved : ProcState) : ProcState :=
  { saved with pacm := s.pacmEnabled saved.el && saved.pacm }

/-- ExceptionReturn(target, saved) (R202, R255). -/
def State.exceptionReturn (s : State) (target : Word) (saved : ProcState) : State :=
  { s with pc := target, pstate := s.returnedPstate saved, freeIdx := s.freeIdx + 1 }

/-! ## The ends of an instruction -/

/-- The instruction ends with the next one at `next`, PSTATE.PACM 0 (R22, R221). -/
def State.retireAt (s : State) (next : Word) : State :=
  { s with
    pc := next
    pstate := { s.pstate with pacm := false }
    freeIdx := s.freeIdx + 1 }

/-- The instruction ends and does not branch (R22). -/
def State.retire (s : State) : State := s.retireAt (s.pc + 4#64)

/-- What becomes of an operation's result: an exception is taken in the state the instruction began in
(R249), and a value goes on to the rest of the instruction. -/
def Res.finish {α : Type} (r : Res α) (s : State) (k : α → State) : Host.Outcome State Fault Refusal :=
  match r with
  | .ok a => .next (k a)
  | .raised e => .next (s.takeException e)

/-! ## Sign, Authenticate and AddPACGA -/

/-- FailRaises(is_combined) (R245). -/
def failRaises (cfg : Config) (combined : Bool) : Bool :=
  if combined then cfg.featFPACCOMBINE else cfg.featFPAC

/-- The code of a PAC Fail exception: NOT is_instr : key_number (R119, R244). -/
def KeyName.failCode (k : KeyName) : BitVec 2 :=
  BitVec.ofBool (!k.isInstr) ++ BitVec.ofBool k.number

/-- The PAC of a data word under key `k` in this state (R123, R124). -/
def State.pacFor (s : State) (k : KeyName) (m : Modifiers) : Word → Word :=
  computePAC s.cfg.method (s.keys.key k) m

/-- Sign(k, ptr, m1, m2) (R123). -/
def State.sign (s : State) (k : KeyName) (ptr : Word) (m : Modifiers) : Res Word :=
  if s.enabled k then
    match s.trapPAC with
    | some level => .raised (.trap level)
    | none => .ok (addPAC s.cfg (s.pacContext ptr k.isInstr true) (s.pacFor k m) ptr)
  else .ok ptr

/-- The VA made non-canonical where bottom_PAC_bit exceeds 52, for which R109 and D9 leave Auth undefined (log 6): the
PAC field holds a FREE VALUE, within what the spec says of every failure: no bit below bottom_PAC_bit changes (R101), and
the result is not canonical (R119, R243), so a free value that would leave it canonical is inverted. -/
def State.openFailure (s : State) (ptr : Word) (isInstr : Bool) : Word :=
  let field := (s.pacContext ptr isInstr false).field
  let v := (ptr &&& ~~~field) ||| (Config.freeFailure s.freeIdx &&& field)
  if s.isCanonical v isInstr then v ^^^ field else v

/-- Auth of a pointer in this state, before it is decided whether a failure raises (R119, R120); the failure value is the
one those rules give up to bottom_PAC_bit 52, and open above (log 6). -/
def State.checkPAC (s : State) (k : KeyName) (ptr : Word) (m : Modifiers) : AuthResult :=
  let c := s.pacContext ptr k.isInstr false
  match auth s.cfg c (s.pacFor k m) k.number ptr with
  | .correct p => .correct p
  | .incorrect p => .incorrect (if c.bottom ≤ 52 then p else s.openFailure ptr k.isInstr)

/-- Authenticate(k, ptr, m1, m2, is_combined) (R123, R119, R245). -/
def State.authenticate (s : State) (k : KeyName) (ptr : Word) (m : Modifiers) (combined : Bool) :
    Res Word :=
  if s.enabled k then
    match s.trapPAC with
    | some level => .raised (.trap level)
    | none =>
      match s.checkPAC k ptr m with
      | .correct p => .ok p
      | .incorrect p =>
        if failRaises s.cfg combined then .raised (.pacFail k.failCode) else .ok p
  else .ok ptr

/-- AddPACGA(x, y) (R122). -/
def State.addPACGA (s : State) (a b : Word) : Res Word :=
  match s.trapPAC with
  | some level => .raised (.trap level)
  | none => .ok (genericPAC (Config.computePACG s.cfg.generic a b s.keys.genericKey))

/-! ## Memory accesses -/

/-- MemRead(addr, 8) (R71), byte `addr` in bits [7:0] (R63). DESIGN CHOICE, log 18: where a misaligned load is performed,
only its first byte's address is tested, and the bytes after it are read unchecked, modulo 2^64, also past the end of the
canonical range; R64 leaves such an access open, and a chip that splits it could fault on the second part. -/
def State.memRead8 (s : State) (addr : Word) : Res Word :=
  if !s.isCanonical addr false then .raised (.loadFault addr)
  else if addr.extractLsb' 0 3 ≠ 0#3 ∧ s.cfg.misalignedLoad = .faults then
    .raised (.misalignedLoad addr)
  else .ok (BitVec.ofNat 64 (natOfBytesLE (Memory.readBytes s.mem (s.place addr false) 8)))

/-- What a fetch gives. -/
inductive Fetched where
  /-- The four bytes at the pc, the one at the lowest address first. -/
  | bytes (b0 b1 b2 b3 : Byte)
  /-- VAFault(pc, fetch) (R72). -/
  | raised (r : Raise)
  /-- The pc is not a multiple of 4 (R64). -/
  | stopped (f : Fault)
  deriving DecidableEq, Repr

/-- Instruction fetch (R72). -/
def State.fetch (s : State) : Fetched :=
  if !s.isCanonical s.pc true then .raised (.fetchFault s.pc)
  else if s.pc.extractLsb' 0 2 ≠ 0#2 then .stopped (.misalignedFetch s.pc)
  else
    let at0 := s.place s.pc true
    .bytes (Memory.read s.mem at0.toNat) (Memory.read s.mem (at0 + 1#64).toNat)
      (Memory.read s.mem (at0 + 2#64).toNat) (Memory.read s.mem (at0 + 3#64).toNat)

end Sys2Proof.Machine
end

