-- ==== Sys2Proof/Machine/Authenticate.lean ====
section
/-! DEFINITION. The instructions that authenticate a PAC (42_pac_authenticate.md). -/

namespace Sys2Proof.Machine

open Sys2Proof

/-- The AUT* class (R160): the pointer register receives Authenticate of itself, or PACFail is taken. -/
def authenticatePac (k : KeyName) (d : RegNum) (m : Modifiers) (s : State) : Host.Outcome State Fault Refusal :=
  (s.authenticate k (s.xzr d) m false).finish s (fun v => (s.setXzr d v).retire)

/-- AUTIA (R161): pointer Xd, modifier Xn or SP. -/
def execAutia (rd rn : RegNum) (s : State) : Host.Outcome State Fault Refusal :=
  authenticatePac .ia rd (.one (s.xsp rn)) s

/-- AUTIB (R162): pointer Xd, modifier Xn or SP. -/
def execAutib (rd rn : RegNum) (s : State) : Host.Outcome State Fault Refusal :=
  authenticatePac .ib rd (.one (s.xsp rn)) s

/-- AUTDA (R163): pointer Xd, modifier Xn or SP. -/
def execAutda (rd rn : RegNum) (s : State) : Host.Outcome State Fault Refusal :=
  authenticatePac .da rd (.one (s.xsp rn)) s

/-- AUTDB (R164): pointer Xd, modifier Xn or SP. -/
def execAutdb (rd rn : RegNum) (s : State) : Host.Outcome State Fault Refusal :=
  authenticatePac .db rd (.one (s.xsp rn)) s

/-- AUTIZA (R165): pointer Xd, modifier zero. -/
def execAutiza (rd : RegNum) (s : State) : Host.Outcome State Fault Refusal :=
  authenticatePac .ia rd (.one 0#64) s

/-- AUTIZB (R166): pointer Xd, modifier zero. -/
def execAutizb (rd : RegNum) (s : State) : Host.Outcome State Fault Refusal :=
  authenticatePac .ib rd (.one 0#64) s

/-- AUTDZA (R167): pointer Xd, modifier zero. -/
def execAutdza (rd : RegNum) (s : State) : Host.Outcome State Fault Refusal :=
  authenticatePac .da rd (.one 0#64) s

/-- AUTDZB (R168): pointer Xd, modifier zero. -/
def execAutdzb (rd : RegNum) (s : State) : Host.Outcome State Fault Refusal :=
  authenticatePac .db rd (.one 0#64) s

/-- AUTIA1716 (R169): pointer X17, modifier X16, with PSTATE.PACM also X15. -/
def execAutia1716 (s : State) : Host.Outcome State Fault Refusal :=
  authenticatePac .ia regX17 (s.pacmModifiers (s.xzr regX16) (s.xzr regX15)) s

/-- AUTIB1716 (R170): pointer X17, modifier X16, with PSTATE.PACM also X15. -/
def execAutib1716 (s : State) : Host.Outcome State Fault Refusal :=
  authenticatePac .ib regX17 (s.pacmModifiers (s.xzr regX16) (s.xzr regX15)) s

/-- AUTIAZ (R171): pointer X30, modifier zero. -/
def execAutiaz (s : State) : Host.Outcome State Fault Refusal :=
  authenticatePac .ia regLR (.one 0#64) s

/-- AUTIASP (R172): pointer X30, modifier SP, with PSTATE.PACM also X16. -/
def execAutiasp (s : State) : Host.Outcome State Fault Refusal :=
  authenticatePac .ia regLR (s.pacmModifiers s.sp (s.xzr regX16)) s

/-- AUTIBZ (R173): pointer X30, modifier zero. -/
def execAutibz (s : State) : Host.Outcome State Fault Refusal :=
  authenticatePac .ib regLR (.one 0#64) s

/-- AUTIBSP (R174): pointer X30, modifier SP, with PSTATE.PACM also X16. -/
def execAutibsp (s : State) : Host.Outcome State Fault Refusal :=
  authenticatePac .ib regLR (s.pacmModifiers s.sp (s.xzr regX16)) s

end Sys2Proof.Machine
end

