-- ==== Sys2Proof/Machine/Branch.lean ====
section
/-! DEFINITION. The combined authenticate and branch instructions, RET and the authenticated exception
returns (44_pac_combined.md). -/

namespace Sys2Proof.Machine

open Sys2Proof

/-- Authenticate and branch (R190): the target goes to the pc only. -/
def branchAuthenticated (k : KeyName) (target : Word) (m : Modifiers) (s : State) : Host.Outcome State Fault Refusal :=
  (s.authenticate k target m true).finish s (fun t => s.retireAt t)

/-- Authenticate and branch with link (R190, R195): X30 receives pc + 4 after the operands are read. -/
def callAuthenticated (k : KeyName) (target : Word) (m : Modifiers) (s : State) : Host.Outcome State Fault Refusal :=
  (s.authenticate k target m true).finish s (fun t => (s.setXzr regLR (s.pc + 4#64)).retireAt t)

/-- Authenticate ELR_ELx and return from the exception (R202, R203, R255); UNDEFINED at EL0. -/
def authenticatedReturn (k : KeyName) (s : State) : Host.Outcome State Fault Refusal :=
  match s.pstate.el.ownLevel with
  | none => .next (s.takeException .undefined)
  | some l =>
    (s.authenticate k (s.elr.get l) (.one s.sp) true).finish s
      (fun t => s.exceptionReturn t (s.spsr.get l))

/-- BRAA (R191): target Xn, modifier Xm or SP. -/
def execBraa (rn rm : RegNum) (s : State) : Host.Outcome State Fault Refusal :=
  branchAuthenticated .ia (s.xzr rn) (.one (s.xsp rm)) s

/-- BRAB (R192): target Xn, modifier Xm or SP. -/
def execBrab (rn rm : RegNum) (s : State) : Host.Outcome State Fault Refusal :=
  branchAuthenticated .ib (s.xzr rn) (.one (s.xsp rm)) s

/-- BRAAZ (R193): target Xn, modifier zero. -/
def execBraaz (rn : RegNum) (s : State) : Host.Outcome State Fault Refusal :=
  branchAuthenticated .ia (s.xzr rn) (.one 0#64) s

/-- BRABZ (R194): target Xn, modifier zero. -/
def execBrabz (rn : RegNum) (s : State) : Host.Outcome State Fault Refusal :=
  branchAuthenticated .ib (s.xzr rn) (.one 0#64) s

/-- BLRAA (R195): target Xn, modifier Xm or SP. -/
def execBlraa (rn rm : RegNum) (s : State) : Host.Outcome State Fault Refusal :=
  callAuthenticated .ia (s.xzr rn) (.one (s.xsp rm)) s

/-- BLRAB (R196): target Xn, modifier Xm or SP. -/
def execBlrab (rn rm : RegNum) (s : State) : Host.Outcome State Fault Refusal :=
  callAuthenticated .ib (s.xzr rn) (.one (s.xsp rm)) s

/-- BLRAAZ (R197): target Xn, modifier zero. -/
def execBlraaz (rn : RegNum) (s : State) : Host.Outcome State Fault Refusal :=
  callAuthenticated .ia (s.xzr rn) (.one 0#64) s

/-- BLRABZ (R198): target Xn, modifier zero. -/
def execBlrabz (rn : RegNum) (s : State) : Host.Outcome State Fault Refusal :=
  callAuthenticated .ib (s.xzr rn) (.one 0#64) s

/-- RETAA (R199): pointer X30, modifier SP, with PSTATE.PACM also X16. -/
def execRetaa (s : State) : Host.Outcome State Fault Refusal :=
  branchAuthenticated .ia (s.xzr regLR) (s.pacmModifiers s.sp (s.xzr regX16)) s

/-- RETAB (R200): pointer X30, modifier SP, with PSTATE.PACM also X16. -/
def execRetab (s : State) : Host.Outcome State Fault Refusal :=
  branchAuthenticated .ib (s.xzr regLR) (s.pacmModifiers s.sp (s.xzr regX16)) s

/-- RET (R201): a branch to Xn, with no authentication. -/
def execRet (rn : RegNum) (s : State) : Host.Outcome State Fault Refusal :=
  .next (s.retireAt (s.xzr rn))

/-- ERETAA (R202). -/
def execEretaa (s : State) : Host.Outcome State Fault Refusal :=
  authenticatedReturn .ia s

/-- ERETAB (R203). -/
def execEretab (s : State) : Host.Outcome State Fault Refusal :=
  authenticatedReturn .ib s

end Sys2Proof.Machine
end

