-- ==== Sys2Proof/Machine/Insert.lean ====
section
/-! DEFINITION. The instructions that insert a PAC (41_pac_insert.md). -/

namespace Sys2Proof.Machine

open Sys2Proof

/-- The insert class (R140): the pointer register receives Sign of itself; a disabled key leaves it as it
was; PSTATE.PACM ends as 0. -/
def insertPac (k : KeyName) (d : RegNum) (m : Modifiers) (s : State) : Host.Outcome State Fault Refusal :=
  (s.sign k (s.xzr d) m).finish s (fun v => (s.setXzr d v).retire)

/-- PACIA (R141): pointer Xd, modifier Xn or SP. -/
def execPacia (rd rn : RegNum) (s : State) : Host.Outcome State Fault Refusal :=
  insertPac .ia rd (.one (s.xsp rn)) s

/-- PACIB (R142): pointer Xd, modifier Xn or SP. -/
def execPacib (rd rn : RegNum) (s : State) : Host.Outcome State Fault Refusal :=
  insertPac .ib rd (.one (s.xsp rn)) s

/-- PACDA (R143): pointer Xd, modifier Xn or SP. -/
def execPacda (rd rn : RegNum) (s : State) : Host.Outcome State Fault Refusal :=
  insertPac .da rd (.one (s.xsp rn)) s

/-- PACDB (R144): pointer Xd, modifier Xn or SP. -/
def execPacdb (rd rn : RegNum) (s : State) : Host.Outcome State Fault Refusal :=
  insertPac .db rd (.one (s.xsp rn)) s

/-- PACIZA (R145): pointer Xd, modifier zero. -/
def execPaciza (rd : RegNum) (s : State) : Host.Outcome State Fault Refusal :=
  insertPac .ia rd (.one 0#64) s

/-- PACIZB (R146): pointer Xd, modifier zero. -/
def execPacizb (rd : RegNum) (s : State) : Host.Outcome State Fault Refusal :=
  insertPac .ib rd (.one 0#64) s

/-- PACDZA (R147): pointer Xd, modifier zero. -/
def execPacdza (rd : RegNum) (s : State) : Host.Outcome State Fault Refusal :=
  insertPac .da rd (.one 0#64) s

/-- PACDZB (R148): pointer Xd, modifier zero. -/
def execPacdzb (rd : RegNum) (s : State) : Host.Outcome State Fault Refusal :=
  insertPac .db rd (.one 0#64) s

/-- PACIA1716 (R149): pointer X17, modifier X16, with PSTATE.PACM also X15. -/
def execPacia1716 (s : State) : Host.Outcome State Fault Refusal :=
  insertPac .ia regX17 (s.pacmModifiers (s.xzr regX16) (s.xzr regX15)) s

/-- PACIB1716 (R150): pointer X17, modifier X16, with PSTATE.PACM also X15. -/
def execPacib1716 (s : State) : Host.Outcome State Fault Refusal :=
  insertPac .ib regX17 (s.pacmModifiers (s.xzr regX16) (s.xzr regX15)) s

/-- PACIAZ (R151): pointer X30, modifier zero. -/
def execPaciaz (s : State) : Host.Outcome State Fault Refusal :=
  insertPac .ia regLR (.one 0#64) s

/-- PACIASP (R152): pointer X30, modifier SP, with PSTATE.PACM also the pc. -/
def execPaciasp (s : State) : Host.Outcome State Fault Refusal :=
  insertPac .ia regLR (s.pacmModifiers s.sp s.pc) s

/-- PACIBZ (R153): pointer X30, modifier zero. -/
def execPacibz (s : State) : Host.Outcome State Fault Refusal :=
  insertPac .ib regLR (.one 0#64) s

/-- PACIBSP (R154): pointer X30, modifier SP, with PSTATE.PACM also the pc. -/
def execPacibsp (s : State) : Host.Outcome State Fault Refusal :=
  insertPac .ib regLR (s.pacmModifiers s.sp s.pc) s

/-- PACIASPPC (R155): always the two modifiers SP and the address of this instruction, whatever PSTATE.PACM
is; UNDEFINED without FEAT_PAuth_LR. -/
def execPaciasppc (s : State) : Host.Outcome State Fault Refusal :=
  if s.cfg.pauthLR then insertPac .ia regLR (.explicit s.sp s.pc) s
  else .next (s.takeException .undefined)

end Sys2Proof.Machine
end

