-- ==== Sys2Proof/Machine/Load.lean ====
section
/-! DEFINITION. The combined authenticate and load instructions (44_pac_combined.md R204 to R206). -/

namespace Sys2Proof.Machine

open Sys2Proof

/-- The base of a load, authenticated with modifier zero (R206). A base SP must be a multiple of 16 (R64);
that check comes after the trap and before the authentication (R248). -/
def State.loadBase (s : State) (k : KeyName) (n : RegNum) : Res Word :=
  if n = 31#5 ∧ s.sp.extractLsb' 0 4 ≠ 0#4 then
    match (if s.enabled k then s.trapPAC else none) with
    | some level => .raised (.trap level)
    | none => .raised .spAlignment
  else s.authenticate k (s.xsp n) (.one 0#64) true

/-- The address loaded from: the authenticated base plus the offset, modulo 2^64 (R126, R206). -/
def loadAddress (base : Word) (offset : Int) : Word := base + BitVec.ofInt 64 offset

/-- The end of a load: Xt receives the data, then the base the address on writeback (R206). -/
def State.afterLoad (s : State) (t n : RegNum) (wback : Bool) (addr data : Word) : State :=
  (if wback then (s.setXzr t data).setXsp n addr else s.setXzr t data).retire

/-- AuthLoad(k, t, n, offset, wback) (R206). -/
def authLoad (k : KeyName) (t n : RegNum) (offset : Int) (wback : Bool) (s : State) :
    Host.Outcome State Fault Refusal :=
  if wback = true ∧ t = n ∧ n ≠ 31#5 then .refused (.writebackToDestination n)
  else
    match s.loadBase k n with
    | .ok base =>
      (s.memRead8 (loadAddress base offset)).finish s
        (fun data => s.afterLoad t n wback (loadAddress base offset) data)
    | .raised e => .next (s.takeException e)

/-- LDRAA (offset) (R204). -/
def execLdraaOffset (rt rn : RegNum) (offset : Int) (s : State) : Host.Outcome State Fault Refusal :=
  authLoad .da rt rn offset false s

/-- LDRAA (pre-indexed) (R204). -/
def execLdraaPre (rt rn : RegNum) (offset : Int) (s : State) : Host.Outcome State Fault Refusal :=
  authLoad .da rt rn offset true s

/-- LDRAB (offset) (R205). -/
def execLdrabOffset (rt rn : RegNum) (offset : Int) (s : State) : Host.Outcome State Fault Refusal :=
  authLoad .db rt rn offset false s

/-- LDRAB (pre-indexed) (R205). -/
def execLdrabPre (rt rn : RegNum) (offset : Int) (s : State) : Host.Outcome State Fault Refusal :=
  authLoad .db rt rn offset true s

end Sys2Proof.Machine
end

