-- ==== Sys2Proof/Machine/Pacm.lean ====
section
/-! DEFINITION. PACM (45_pacm.md) and NOP (30_encoding.md R89). -/

namespace Sys2Proof.Machine

open Sys2Proof

/-- PACM (R220): PSTATE.PACM ends as 1 where the effects of PACM are enabled, else as 0. -/
def execPacm (s : State) : Host.Outcome State Fault Refusal :=
  .next { s.retire with pstate := { s.pstate with pacm := s.pacmEnabled s.pstate.el } }

/-- NOP (R89). -/
def execNop (s : State) : Host.Outcome State Fault Refusal :=
  .next s.retire

end Sys2Proof.Machine
end

