-- ==== Sys2Proof/Machine/Strip.lean ====
section
/-! DEFINITION. The strip instructions and generic authentication (43_pac_strip_generic.md). -/

namespace Sys2Proof.Machine

open Sys2Proof

/-- The XPAC* class (R180): the register receives Strip of itself; no key, no enable, no trap. -/
def stripPac (d : RegNum) (isInstr : Bool) (s : State) : Host.Outcome State Fault Refusal :=
  .next (s.setXzr d (s.strip (s.xzr d) isInstr)).retire

/-- XPACI (R181): an instruction address in Xd. -/
def execXpaci (rd : RegNum) (s : State) : Host.Outcome State Fault Refusal :=
  stripPac rd true s

/-- XPACD (R182): a data address in Xd. -/
def execXpacd (rd : RegNum) (s : State) : Host.Outcome State Fault Refusal :=
  stripPac rd false s

/-- XPACLRI (R183): an instruction address in X30. -/
def execXpaclri (s : State) : Host.Outcome State Fault Refusal :=
  stripPac regLR true s

/-- PACGA (R184): Xd receives the generic PAC of Xn and of Xm or SP. -/
def execPacga (rd rn rm : RegNum) (s : State) : Host.Outcome State Fault Refusal :=
  (s.addPACGA (s.xzr rn) (s.xsp rm)).finish s (fun v => (s.setXzr rd v).retire)

end Sys2Proof.Machine
end

