-- ==== Sys2Proof/Machine/Dispatch.lean ====
section
/-! DEFINITION. exec: one arm per instruction of the opcode table, each a call of its meaning. -/

namespace Sys2Proof.Machine

open Sys2Proof

/-- The meaning of an instruction. -/
def exec (i : Instr) (s : State) : Host.Outcome State Fault Refusal :=
  match i with
  | .pacia rd rn => Sys2Proof.Machine.execPacia rd rn s
  | .pacib rd rn => Sys2Proof.Machine.execPacib rd rn s
  | .pacda rd rn => Sys2Proof.Machine.execPacda rd rn s
  | .pacdb rd rn => Sys2Proof.Machine.execPacdb rd rn s
  | .paciza rd => Sys2Proof.Machine.execPaciza rd s
  | .pacizb rd => Sys2Proof.Machine.execPacizb rd s
  | .pacdza rd => Sys2Proof.Machine.execPacdza rd s
  | .pacdzb rd => Sys2Proof.Machine.execPacdzb rd s
  | .pacia1716 => Sys2Proof.Machine.execPacia1716 s
  | .pacib1716 => Sys2Proof.Machine.execPacib1716 s
  | .paciaz => Sys2Proof.Machine.execPaciaz s
  | .paciasp => Sys2Proof.Machine.execPaciasp s
  | .pacibz => Sys2Proof.Machine.execPacibz s
  | .pacibsp => Sys2Proof.Machine.execPacibsp s
  | .paciasppc => Sys2Proof.Machine.execPaciasppc s
  | .autia rd rn => Sys2Proof.Machine.execAutia rd rn s
  | .autib rd rn => Sys2Proof.Machine.execAutib rd rn s
  | .autda rd rn => Sys2Proof.Machine.execAutda rd rn s
  | .autdb rd rn => Sys2Proof.Machine.execAutdb rd rn s
  | .autiza rd => Sys2Proof.Machine.execAutiza rd s
  | .autizb rd => Sys2Proof.Machine.execAutizb rd s
  | .autdza rd => Sys2Proof.Machine.execAutdza rd s
  | .autdzb rd => Sys2Proof.Machine.execAutdzb rd s
  | .autia1716 => Sys2Proof.Machine.execAutia1716 s
  | .autib1716 => Sys2Proof.Machine.execAutib1716 s
  | .autiaz => Sys2Proof.Machine.execAutiaz s
  | .autiasp => Sys2Proof.Machine.execAutiasp s
  | .autibz => Sys2Proof.Machine.execAutibz s
  | .autibsp => Sys2Proof.Machine.execAutibsp s
  | .xpaci rd => Sys2Proof.Machine.execXpaci rd s
  | .xpacd rd => Sys2Proof.Machine.execXpacd rd s
  | .xpaclri => Sys2Proof.Machine.execXpaclri s
  | .pacga rd rn rm => Sys2Proof.Machine.execPacga rd rn rm s
  | .braa rn rm => Sys2Proof.Machine.execBraa rn rm s
  | .brab rn rm => Sys2Proof.Machine.execBrab rn rm s
  | .braaz rn => Sys2Proof.Machine.execBraaz rn s
  | .brabz rn => Sys2Proof.Machine.execBrabz rn s
  | .blraa rn rm => Sys2Proof.Machine.execBlraa rn rm s
  | .blrab rn rm => Sys2Proof.Machine.execBlrab rn rm s
  | .blraaz rn => Sys2Proof.Machine.execBlraaz rn s
  | .blrabz rn => Sys2Proof.Machine.execBlrabz rn s
  | .retaa => Sys2Proof.Machine.execRetaa s
  | .retab => Sys2Proof.Machine.execRetab s
  | .ret rn => Sys2Proof.Machine.execRet rn s
  | .eretaa => Sys2Proof.Machine.execEretaa s
  | .eretab => Sys2Proof.Machine.execEretab s
  | .ldraaOffset rt rn offset => Sys2Proof.Machine.execLdraaOffset rt rn offset s
  | .ldraaPre rt rn offset => Sys2Proof.Machine.execLdraaPre rt rn offset s
  | .ldrabOffset rt rn offset => Sys2Proof.Machine.execLdrabOffset rt rn offset s
  | .ldrabPre rt rn offset => Sys2Proof.Machine.execLdrabPre rt rn offset s
  | .pacm => Sys2Proof.Machine.execPacm s
  | .nop => Sys2Proof.Machine.execNop s

end Sys2Proof.Machine
end

