-- ==== Sys2Proof/Machine/Outside.lean ====
section
/-! DEFINITION. The words that match no row of the table (30_encoding.md R89, R90). -/

namespace Sys2Proof.Machine

open Sys2Proof

/-- What a word of no row does: an unallocated hint is a NOP (R89); an unallocated word of the PAC formats is
UNDEFINED (R90, R241), and so, without FEAT_PAuth_LR, is a word that D34 leaves to that feature; any other is "not an
instruction of this spec", which R90 and D34 refuse (log 25). -/
def execNoRow (kind : NoRow) (w : InstrWord) (s : State) : Host.Outcome State Fault Refusal :=
  match kind with
  | .hint => .next s.retire
  | .unallocated => .next (s.takeException .undefined)
  | .pauthLRSpace =>
    if s.cfg.pauthLR then .refused (.notInSpec w) else .next (s.takeException .undefined)
  | .surrounding => .refused (.notInSpec w)

end Sys2Proof.Machine
end

