-- ==== Sys2Proof/Machine/Step.lean ====
section
/-! DEFINITION. One step: fetch, decode, execute (60_exceptions.md R248). -/

namespace Sys2Proof.Machine

open Sys2Proof

/-- The execution of a fetched word (R248). -/
def execWord (w : InstrWord) (s : State) : Host.Outcome State Fault Refusal :=
  match decodeWord w with
  | some i => exec i s
  | none => execNoRow (noRowKind w) w s

/-- One instruction: a fetch at a non-canonical pc takes VAFault (R72), and a fetched instruction runs. -/
def step (s : State) : Host.Outcome State Fault Refusal :=
  match s.fetch with
  | .bytes b0 b1 b2 b3 => execWord (wordOfBytes b0 b1 b2 b3) s
  | .raised r => .next (s.takeException r)
  | .stopped f => .fault f

/-- The state with the instruction of the `nbits` low bits of `w` placed where `step` fetches next. -/
def State.withFetchWord (s : State) (nbits w : Nat) : State :=
  { s with
    mem := Memory.writeBytes s.mem (s.place s.pc true)
      (bytesOfWord (BitVec.ofNat 32 (w % 2 ^ nbits))) }

end Sys2Proof.Machine
end

