-- ==== Sys2Proof/Machine/IdRegs.lean ====
section
/-! DEFINITION. The read-only identification fields (10_state.md R34, R40): consequences of the
configuration. No instruction in scope reads them. -/

namespace Sys2Proof.Machine

open Sys2Proof

/-- The fields of ID_AA64ISAR1_EL1 (R34). -/
structure IdAa64isar1 where
  apa : BitVec 4
  api : BitVec 4
  gpa : BitVec 4
  gpi : BitVec 4
  deriving DecidableEq, Repr

/-- The fields of ID_AA64ISAR2_EL1 (R34). -/
structure IdAa64isar2 where
  gpa3 : BitVec 4
  apa3 : BitVec 4
  deriving DecidableEq, Repr

/-- The value the implemented algorithm's field takes for the features present (R40, PRESUMED). With FEAT_PAuth_LR, 0b0110
says that every rung is there; R40 has no value for that feature on a lower rung, which D30 does not reject, and there
the model has a FREE VALUE other than 0 (R34), a DESIGN CHOICE (log 35). -/
def featureValue (cfg : Config) : BitVec 4 :=
  match cfg.pauthLR, cfg.level with
  | false, .pauth => 0b0001#4
  | false, .epac => 0b0010#4
  | false, .pauth2 => 0b0011#4
  | false, .fpac => 0b0100#4
  | false, .fpacCombine => 0b0101#4
  | true, .fpacCombine => 0b0110#4
  | true, level => if Config.freeIdValue level = 0#4 then 0b0110#4 else Config.freeIdValue level

/-- `v` in the field of an algorithm that is implemented, 0 in the others. -/
def fieldIf (implemented : Bool) (v : BitVec 4) : BitVec 4 := if implemented then v else 0#4

/-- ID_AA64ISAR1_EL1 (R34). -/
def State.idAa64isar1 (s : State) : IdAa64isar1 where
  apa := fieldIf (s.cfg.method.algorithm == .qarma5) (featureValue s.cfg)
  api := fieldIf (s.cfg.method.algorithm == .imp) (featureValue s.cfg)
  gpa := fieldIf (s.cfg.generic == .qarma5) 0b0001#4
  gpi := fieldIf (s.cfg.generic == .imp) 0b0001#4

/-- ID_AA64ISAR2_EL1 (R34). -/
def State.idAa64isar2 (s : State) : IdAa64isar2 where
  gpa3 := fieldIf (s.cfg.generic == .qarma3) 0b0001#4
  apa3 := fieldIf (s.cfg.method.algorithm == .qarma3) (featureValue s.cfg)

end Sys2Proof.Machine
end

