-- ==== Sys2Proof/Machine/Layout.lean ====
section
/-! DEFINITION. Where the fields of the state stand in their 64-bit registers (10_state.md R40; all of it PRESUMED, from
the spec's general knowledge, log 38). `write` puts the fields a register has in this model into a word and keeps the
word's other bits, which the spec does not name; `read` takes them out. No instruction in scope uses either: they are
how a surrounding machine routes MSR and MRS to this state (R39). -/

namespace Sys2Proof.Machine

open Sys2Proof

/-- `w` with the field of `n` bits from bit `lo` on replaced. -/
def putField {n : Nat} (w : Word) (lo : Nat) (v : BitVec n) : Word :=
  (w &&& ~~~((BitVec.allOnes n).setWidth 64 <<< lo)) ||| v.setWidth 64 <<< lo

/-! ## SCTLR_ELx, SCTLR2_ELx, HCRX_EL2 -/

/-- SCTLR_ELx: EnIA bit 31, EnIB bit 30, EnDA bit 27, EnDB bit 13. -/
def Sctlr.write (r : Sctlr) (w : Word) : Word :=
  setBit (setBit (setBit (setBit w 31 r.enIA) 30 r.enIB) 27 r.enDA) 13 r.enDB

/-- The fields of an SCTLR_ELx word. -/
def Sctlr.read (w : Word) : Sctlr where
  enIA := w.getLsbD 31
  enIB := w.getLsbD 30
  enDA := w.getLsbD 27
  enDB := w.getLsbD 13

/-- SCTLR2_ELx: EnPACM bit 7, EnPACM0 bit 8. -/
def Sctlr2.write (r : Sctlr2) (w : Word) : Word := setBit (setBit w 7 r.enPACM) 8 r.enPACM0

/-- The fields of an SCTLR2_ELx word. -/
def Sctlr2.read (w : Word) : Sctlr2 where
  enPACM := w.getLsbD 7
  enPACM0 := w.getLsbD 8

/-- HCRX_EL2: PACMEn, at a bit that R40 leaves OPEN. -/
def HcrxEl2.write (r : HcrxEl2) (w : Word) : Word := setBit w Config.pacmEnPosition.val r.pacmEn

/-- The field of an HCRX_EL2 word. -/
def HcrxEl2.read (w : Word) : HcrxEl2 where
  pacmEn := w.getLsbD Config.pacmEnPosition.val

/-! ## TCR_ELx -/

/-- TCR_ELx of a regime with two VA ranges: T0SZ [5:0], T1SZ [21:16], TBI0 37, TBI1 38, TBID0 51, TBID1 52. -/
def Tcr.writeTwoRanges (r : Tcr) (w : Word) : Word :=
  setBit (setBit (setBit (setBit (putField (putField w 0 r.t0sz) 16 r.t1sz) 37 r.tbi0) 38 r.tbi1) 51 r.tbid0) 52 r.tbid1

/-- TCR_ELx of a regime with a single VA range: T0SZ [5:0], TBI 20, TBID 29. -/
def Tcr.writeSingleRange (r : Tcr) (w : Word) : Word :=
  setBit (setBit (putField w 0 r.t0sz) 20 r.tbi) 29 r.tbid

/-- `r` with the fields of a two range TCR_ELx word. -/
def Tcr.readTwoRanges (r : Tcr) (w : Word) : Tcr :=
  { r with
    t0sz := w.extractLsb' 0 6
    t1sz := w.extractLsb' 16 6
    tbi0 := w.getLsbD 37
    tbi1 := w.getLsbD 38
    tbid0 := w.getLsbD 51
    tbid1 := w.getLsbD 52 }

/-- `r` with the fields of a single range TCR_ELx word. -/
def Tcr.readSingleRange (r : Tcr) (w : Word) : Tcr :=
  { r with
    t0sz := w.extractLsb' 0 6
    tbi := w.getLsbD 20
    tbid := w.getLsbD 29 }

/-- TCR_ELx has the single range layout: TCR_EL3, and TCR_EL2 where its regime has a single range (R40, R251). -/
def State.tcrSingle (s : State) : CtlLevel → Bool
  | .el3 => true
  | .el2 => !s.e2h
  | .el1 => false

/-- TCR_ELx in the layout it has in this state. -/
def State.tcrWrite (s : State) (l : CtlLevel) (w : Word) : Word :=
  if s.tcrSingle l then (s.tcr.get l).writeSingleRange w else (s.tcr.get l).writeTwoRanges w

/-! ## SPSR_ELx, DSPSR_EL0, ESR_ELx -/

/-- SPSR_ELx and DSPSR_EL0: PACM bit 35. -/
def writePacm (pacm : Bool) (w : Word) : Word := setBit w 35 pacm

/-- PACM of an SPSR_ELx or DSPSR_EL0 word. -/
def readPacm (w : Word) : Bool := w.getLsbD 35

/-- ESR_ELx: EC [31:26] (R35, R40) and ISS [24:0] (R244), with IL in the bit between them. -/
def writeSyndrome (r : Syndrome) (w : Word) : Word :=
  putField (setBit (putField w 0 r.iss) 25 r.il) 26 r.ec

/-- The fields of an ESR_ELx word. -/
def readSyndrome (w : Word) : Syndrome where
  ec := w.extractLsb' 26 6
  il := w.getLsbD 25
  iss := w.extractLsb' 0 25

/-! ## The identification registers -/

/-- ID_AA64ISAR1_EL1: APA [7:4], API [11:8], GPA [27:24], GPI [31:28]. -/
def IdAa64isar1.write (r : IdAa64isar1) (w : Word) : Word :=
  putField (putField (putField (putField w 4 r.apa) 8 r.api) 24 r.gpa) 28 r.gpi

/-- ID_AA64ISAR2_EL1: GPA3 [11:8], APA3 [15:12]. -/
def IdAa64isar2.write (r : IdAa64isar2) (w : Word) : Word :=
  putField (putField w 8 r.gpa3) 12 r.apa3

end Sys2Proof.Machine
end

