-- ==== Sys2Proof/Safety.lean ====
section
/-! DEFINITION. The terms claims are stated in: the invariant of the machine, the frames, and what each class
of instruction works on, written from the per-instruction rules of files 41 to 44 and not from the meanings. -/

namespace Sys2Proof.Machine

open Sys2Proof

/-! ## The invariant -/

/-- PSTATE.EL as a number: EL0 is the least privileged (R23, R250). -/
def EL.rank (e : EL) : Nat := e.bits.toNat

/-- The Exception level exists and is enabled (D4; EL0 and EL1 always do). -/
def State.present (s : State) : EL → Bool
  | .el0 | .el1 => true
  | .el2 => s.cfg.el2On
  | .el3 => s.cfg.haveEL3

/-- What every step keeps. -/
structure State.Inv (s : State) : Prop where
  /-- Memory is in its canonical form. -/
  memoryCanonical : Memory.wf s.mem = true
  /-- The PE runs at a level it has (R250). -/
  levelPresent : s.present s.pstate.el = true
  /-- Every saved level is one the PE has (R254). -/
  savedPresent : ∀ l, s.present (s.spsr.get l).el = true
  /-- SPSR_ELx holds a level not above ELx (R244, R254). -/
  savedNotAbove : ∀ l, (s.spsr.get l).el.rank ≤ l.toEL.rank
  /-- PSTATE.PACM is 1 only where the effects of PACM are enabled (R223, R224). -/
  pacmOnlyEnabled : s.pstate.pacm = true → s.pacmEnabled s.pstate.el = true

/-! ## Frames -/

/-- The keys, the control registers, DSPSR_EL0.PACM and the configuration are unchanged (R285). -/
structure ControlKept (s t : State) : Prop where
  keys : t.keys = s.keys
  sctlr : t.sctlr = s.sctlr
  tcr : t.tcr = s.tcr
  sctlr2 : t.sctlr2 = s.sctlr2
  hcrxEl2 : t.hcrxEl2 = s.hcrxEl2
  hcrEl2 : t.hcrEl2 = s.hcrEl2
  scrEl3 : t.scrEl3 = s.scrEl3
  vbar : t.vbar = s.vbar
  dspsrEl0Pacm : t.dspsrEl0Pacm = s.dspsrEl0Pacm
  cfg : t.cfg = s.cfg

/-- ELR, SPSR, ESR and FAR of every level are unchanged. -/
structure ExceptionRegsKept (s t : State) : Prop where
  elr : t.elr = s.elr
  spsr : t.spsr = s.spsr
  esr : t.esr = s.esr
  far : t.far = s.far

/-- Every byte of memory reads as before. -/
def MemoryKept (s t : State) : Prop := ∀ a : Nat, Memory.read t.mem a = Memory.read s.mem a

/-- Every general register but `d` reads as before; XZR still reads as zero. -/
def RegistersKeptBut (d : RegNum) (s t : State) : Prop :=
  (∀ r, r ≠ d → t.xzr r = s.xzr r) ∧ t.xzr 31#5 = 0#64

/-- X0 to X30 and XZR read as before. -/
def RegistersKept (s t : State) : Prop := ∀ r, t.xzr r = s.xzr r

/-- The stack pointers are unchanged. -/
def StackPointersKept (s t : State) : Prop := t.sps = s.sps

/-- What an instruction that completes leaves of everything but the registers and stack pointers: the next
instruction is at `next`, PSTATE.PACM is 0 and PSTATE is otherwise unchanged, and so are the special and
exception registers and every byte of memory (R22, R221). -/
structure Completed (s t : State) (next : Word) : Prop where
  pc : t.pc = next
  pstate : t.pstate = { s.pstate with pacm := false }
  control : ControlKept s t
  exceptionRegs : ExceptionRegsKept s t
  memory : MemoryKept s t

/-- The instruction completes and writes `v` to register `d` and nothing else; a write to number 31 is
discarded. -/
structure WroteRegister (s t : State) (d : RegNum) (v : Word) (next : Word) : Prop where
  result : d ≠ 31#5 → t.xzr d = v
  registers : RegistersKeptBut d s t
  stackPointers : StackPointersKept s t
  completed : Completed s t next

/-- The instruction completes as a NOP or a plain branch: no register is written. -/
structure WroteNothing (s t : State) (next : Word) : Prop where
  registers : RegistersKept s t
  stackPointers : StackPointersKept s t
  completed : Completed s t next

/-! ## What each class of instruction works on -/

/-- The key, the pointer register and the modifiers of an instruction that inserts a PAC (R141 to R155).
PACIASPPC is one only with FEAT_PAuth_LR. -/
def insertOperands (s : State) : Instr → Option (KeyName × RegNum × Modifiers)
  | .pacia d n => some (.ia, d, .one (s.xsp n))
  | .pacib d n => some (.ib, d, .one (s.xsp n))
  | .pacda d n => some (.da, d, .one (s.xsp n))
  | .pacdb d n => some (.db, d, .one (s.xsp n))
  | .paciza d => some (.ia, d, .one 0#64)
  | .pacizb d => some (.ib, d, .one 0#64)
  | .pacdza d => some (.da, d, .one 0#64)
  | .pacdzb d => some (.db, d, .one 0#64)
  | .pacia1716 => some (.ia, 17#5, s.pacmModifiers (s.xzr 16#5) (s.xzr 15#5))
  | .pacib1716 => some (.ib, 17#5, s.pacmModifiers (s.xzr 16#5) (s.xzr 15#5))
  | .paciaz => some (.ia, 30#5, .one 0#64)
  | .paciasp => some (.ia, 30#5, s.pacmModifiers s.sp s.pc)
  | .pacibz => some (.ib, 30#5, .one 0#64)
  | .pacibsp => some (.ib, 30#5, s.pacmModifiers s.sp s.pc)
  | .paciasppc => if s.cfg.pauthLR then some (.ia, 30#5, .explicit s.sp s.pc) else none
  | _ => none

/-- The key, the pointer register and the modifiers of an AUT* instruction (R161 to R174). -/
def authenticateOperands (s : State) : Instr → Option (KeyName × RegNum × Modifiers)
  | .autia d n => some (.ia, d, .one (s.xsp n))
  | .autib d n => some (.ib, d, .one (s.xsp n))
  | .autda d n => some (.da, d, .one (s.xsp n))
  | .autdb d n => some (.db, d, .one (s.xsp n))
  | .autiza d => some (.ia, d, .one 0#64)
  | .autizb d => some (.ib, d, .one 0#64)
  | .autdza d => some (.da, d, .one 0#64)
  | .autdzb d => some (.db, d, .one 0#64)
  | .autia1716 => some (.ia, 17#5, s.pacmModifiers (s.xzr 16#5) (s.xzr 15#5))
  | .autib1716 => some (.ib, 17#5, s.pacmModifiers (s.xzr 16#5) (s.xzr 15#5))
  | .autiaz => some (.ia, 30#5, .one 0#64)
  | .autiasp => some (.ia, 30#5, s.pacmModifiers s.sp (s.xzr 16#5))
  | .autibz => some (.ib, 30#5, .one 0#64)
  | .autibsp => some (.ib, 30#5, s.pacmModifiers s.sp (s.xzr 16#5))
  | _ => none

/-- The key, the register that holds the target and the modifiers of a combined authenticate and branch
without link (R191 to R194, R199, R200). -/
def branchOperands (s : State) : Instr → Option (KeyName × RegNum × Modifiers)
  | .braa n m => some (.ia, n, .one (s.xsp m))
  | .brab n m => some (.ib, n, .one (s.xsp m))
  | .braaz n => some (.ia, n, .one 0#64)
  | .brabz n => some (.ib, n, .one 0#64)
  | .retaa => some (.ia, 30#5, s.pacmModifiers s.sp (s.xzr 16#5))
  | .retab => some (.ib, 30#5, s.pacmModifiers s.sp (s.xzr 16#5))
  | _ => none

/-- The same of a combined authenticate and branch with link (R195 to R198). -/
def linkOperands (s : State) : Instr → Option (KeyName × RegNum × Modifiers)
  | .blraa n m => some (.ia, n, .one (s.xsp m))
  | .blrab n m => some (.ib, n, .one (s.xsp m))
  | .blraaz n => some (.ia, n, .one 0#64)
  | .blrabz n => some (.ib, n, .one 0#64)
  | _ => none

/-- The key of an authenticated exception return (R202, R203). -/
def returnKey : Instr → Option KeyName
  | .eretaa => some .ia
  | .eretab => some .ib
  | _ => none

/-- A combined authenticate and load: key, destination, base, byte offset, writeback (R204, R205). -/
structure LoadOperands where
  key : KeyName
  dest : RegNum
  base : RegNum
  offset : Int
  writeback : Bool
  deriving DecidableEq, Repr

/-- The operands of LDRAA and LDRAB (R204, R205). -/
def loadOperands : Instr → Option LoadOperands
  | .ldraaOffset t n offset => some ⟨.da, t, n, offset, false⟩
  | .ldraaPre t n offset => some ⟨.da, t, n, offset, true⟩
  | .ldrabOffset t n offset => some ⟨.db, t, n, offset, false⟩
  | .ldrabPre t n offset => some ⟨.db, t, n, offset, true⟩
  | _ => none

/-- The base of a load with writeback is its destination: CONSTRAINED UNPREDICTABLE (R206, D25). -/
def LoadOperands.Overlap (o : LoadOperands) : Prop :=
  o.writeback = true ∧ o.dest = o.base ∧ o.base ≠ 31#5

/-- The address of a load whose base authenticates to `base` (R206). -/
def LoadOperands.address (o : LoadOperands) (base : Word) : Word := loadAddress base o.offset

/-- A base SP is a multiple of 16 (R64). -/
def LoadOperands.BaseAligned (o : LoadOperands) (s : State) : Prop :=
  o.base = 31#5 → s.sp.extractLsb' 0 4 = 0#4

/-- The register and the kind of pointer of a strip instruction (R181 to R183). -/
def stripOperands : Instr → Option (RegNum × Bool)
  | .xpaci d => some (d, true)
  | .xpacd d => some (d, false)
  | .xpaclri => some (30#5, true)
  | _ => none

/-- The instruction signs or authenticates with this key, which HCR_EL2.API and SCR_EL3.API can trap (R252):
ERETAA and ERETAB above EL0, and a pre-indexed load only where its base is not its destination. -/
def UsesKey (s : State) (i : Instr) (k : KeyName) : Prop :=
  (∃ d m, insertOperands s i = some (k, d, m) ∨ authenticateOperands s i = some (k, d, m) ∨
    branchOperands s i = some (k, d, m) ∨ linkOperands s i = some (k, d, m)) ∨
  (returnKey i = some k ∧ s.pstate.el ≠ .el0) ∨
  ∃ o, loadOperands i = some o ∧ o.key = k ∧ ¬ o.Overlap

/-- A PAC operation with this key acts: the key is enabled and no control traps it (R123, R252). -/
def State.Acts (s : State) (k : KeyName) : Prop := s.enabled k = true ∧ s.trapPAC = none

/-- An outcome with its next state changed. -/
def mapNext (f : State → State) : Host.Outcome State Fault Refusal → Host.Outcome State Fault Refusal
  | .next t => .next (f t)
  | .fault r => .fault r
  | .refused r => .refused r

/-- The state with other key registers. -/
def State.withKeys (s : State) (keys : KeyRegs) : State := { s with keys := keys }

/-- All the bits of E are equal: the pointer is canonical for a PAC operation (R117, R125). -/
def PacContext.Canonical (c : PacContext) (ptr : Word) : Prop :=
  ptr &&& c.ext = 0#64 ∨ ptr &&& c.ext = c.ext

/-- A later state with the TCR fields, tagging controls, keys, enables and traps of `s`, at the same
Exception level (the premise of R125). -/
structure SamePointerAuth (s t : State) : Prop where
  cfg : t.cfg = s.cfg
  el : t.pstate.el = s.pstate.el
  keys : t.keys = s.keys
  sctlr : t.sctlr = s.sctlr
  tcr : t.tcr = s.tcr
  hcrEl2 : t.hcrEl2 = s.hcrEl2
  scrEl3 : t.scrEl3 = s.scrEl3

end Sys2Proof.Machine
end

