-- ==== Sys2Proof/Certificates/Slice0/Obligations.lean ====
section
/-! DEFINITION. The statements about the machine, for the provers. Each docstring names the rules it rests on;
a clause that rests on a choice of the model names its log entry. -/

open Sys2Proof Sys2Proof.Machine

/-! ## Encoding, decoding and the step -/

/-- R80 to R88: the decoder reads back every well-formed instruction from the bytes of its word, and leaves the
bytes after it. -/
def Obligations.DecodeInvertsEncode : Prop :=
  ∀ (i : Instr) (rest : List Byte), i.wellFormed = true →
    decode (bytesOfWord (encode i) ++ rest) = .ok (i, rest)

/-- R82 to R88: a word that decodes is the word of the instruction it decodes to, which is well-formed: no bit
of a word is ignored. -/
def Obligations.DecodedWordIsTheInstructionsWord : Prop :=
  ∀ (w : InstrWord) (i : Instr), decodeWord w = some i → i.wellFormed = true ∧ encode i = w

/-- R88: no word matches two rows, and a word that matches a row decodes to that row's instruction. -/
def Obligations.EncodingRowsAreDisjoint : Prop :=
  encodingRows.Pairwise (fun a b => ∀ w : InstrWord, ¬ (w &&& a.mask = a.pattern ∧ w &&& b.mask = b.pattern)) ∧
  ∀ r ∈ encodingRows, ∀ w : InstrWord, w &&& r.mask = r.pattern → decodeWord w = some (r.build w)

/-- The words that the instruction rules R141 to R205 give as examples. -/
def Obligations.ExampleWordsDecode : Prop :=
  decodeTableWord 32 0xdac10020 = some (.pacia 0#5 1#5) ∧
  decodeTableWord 32 0xdac117e0 = some (.autib 0#5 31#5) ∧
  decodeTableWord 32 0xdac147e4 = some (.xpacd 4#5) ∧
  decodeTableWord 32 0x9ac23020 = some (.pacga 0#5 1#5 2#5) ∧
  decodeTableWord 32 0xd73f0822 = some (.blraa 1#5 2#5) ∧
  decodeTableWord 32 0xd65f03c0 = some (.ret 30#5) ∧
  decodeTableWord 32 0xf8202c20 = some (.ldraaPre 0#5 1#5 16) ∧
  decodeTableWord 32 0xf8fff420 = some (.ldrabOffset 0#5 1#5 (-8)) ∧
  decodeTableWord 32 0xd50324ff = some .pacm ∧
  decodeTableWord 32 0xd503201f = some .nop

/-- R72: a step at a canonical, word-aligned pc runs the instruction that the four bytes there decode to. -/
def Obligations.StepRunsTheDecodedInstruction : Prop :=
  ∀ (s : State) (i : Instr), s.isCanonical s.pc true = true → s.pc.extractLsb' 0 2 = 0#2 →
    decode (Memory.readBytes s.mem (s.place s.pc true) 4) = .ok (i, []) → step s = exec i s

/-- R63, R72, R80: a word lies at the pc with byte j of it, bits [8j+7:8j], at the place of the pc plus j. An instruction
whose word lies there so is the one the next step runs, whatever else memory holds; and withFetchWord lays a word out
so, in a memory in its canonical form. -/
def Obligations.PlacedInstructionRunsNext : Prop :=
  ∀ (s : State) (i : Instr), i.wellFormed = true → s.isCanonical s.pc true = true → s.pc.extractLsb' 0 2 = 0#2 →
    ((∀ j, j < 4 → Memory.read s.mem (s.place s.pc true + BitVec.ofNat 64 j).toNat =
        (encode i).extractLsb' (8 * j) 8) → step s = exec i s) ∧
    (Memory.wf s.mem = true →
      (∀ j, j < 4 → Memory.read (s.withFetchWord 32 (encode i).toNat).mem
        (s.place s.pc true + BitVec.ofNat 64 j).toNat = (encode i).extractLsb' (8 * j) 8) ∧
      step (s.withFetchWord 32 (encode i).toNat) = exec i (s.withFetchWord 32 (encode i).toNat))

/-- R72, R246: a fetch from a non-canonical pc takes VAFault(pc, fetch), whose address goes to FAR of the level
the exception is taken to. R64, log 19: at a canonical pc that is not a multiple of 4 the model stops. -/
def Obligations.FetchFaultsOutsideCanonicalPc : Prop :=
  ∀ s : State,
    (s.isCanonical s.pc true = false →
      ∃ t, step s = .next t ∧ t = s.takeException (.fetchFault s.pc) ∧
        t.far.get (s.exceptionTarget (.fetchFault s.pc)) = s.pc ∧
        t.elr.get (s.exceptionTarget (.fetchFault s.pc)) = s.pc) ∧
    (s.isCanonical s.pc true = true → s.pc.extractLsb' 0 2 ≠ 0#2 → step s = .fault (.misalignedFetch s.pc))

/-- R89, R90, R241, D34, log 25: a step at a word of no row. An unallocated hint (every format H word but BTI) completes as
a NOP. A word of format D1 or B is UNDEFINED, but for the words of BR, BLR and ERET, which are the surrounding machine's,
and, with FEAT_PAuth_LR, for those that D34 leaves to that feature; these and every other word are no instruction of the
spec and are refused by name. Which words are BTI, BR, BLR and ERET and which can be D34's is the model's (log 25). -/
def Obligations.WordsOutsideTheTable : Prop :=
  ∀ (s : State) (w : InstrWord), s.isCanonical s.pc true = true → s.pc.extractLsb' 0 2 = 0#2 →
    Memory.readBytes s.mem (s.place s.pc true) 4 = bytesOfWord w → decodeWord w = none →
    (w &&& 0xfffff01f#32 = 0xd503201f#32 →
      (isBTI w = false → ∃ t, step s = .next t ∧ WroteNothing s t (s.pc + 4#64)) ∧
      (isBTI w = true → step s = .refused (.notInSpec w))) ∧
    (w &&& 0xffff0000#32 = 0xdac10000#32 ∨ w &&& 0xfe1f0000#32 = 0xd61f0000#32 →
      (isPlainBranch w = false → s.cfg.pauthLR = false ∨ inPAuthLRSpace w = false →
        step s = .next (s.takeException .undefined)) ∧
      (isPlainBranch w = true ∨ (s.cfg.pauthLR = true ∧ inPAuthLRSpace w = true) → step s = .refused (.notInSpec w))) ∧
    (w &&& 0xfffff01f#32 ≠ 0xd503201f#32 → w &&& 0xffff0000#32 ≠ 0xdac10000#32 →
      w &&& 0xfe1f0000#32 ≠ 0xd61f0000#32 → step s = .refused (.notInSpec w))

/-! ## What holds of every step -/

/-- The reset state (every value of it the model's choice, log 2 and 3) meets the invariant. -/
def Obligations.ResetMeetsInvariant : Prop := State.reset.Inv

/-- Every step keeps the invariant: memory stays canonical, the PE stays at a level it has, SPSR_ELx holds a
level not above ELx, and PSTATE.PACM is 1 only where the effects of PACM are enabled (R224, R250, R254, R255). -/
def Obligations.StepKeepsInvariant : Prop :=
  ∀ s t : State, s.Inv → step s = .next t → t.Inv

/-- R26, R68, R285: no step changes a key, a control register, the configuration, or a byte of memory. -/
def Obligations.StepKeepsKeysControlsAndMemory : Prop :=
  ∀ s t : State, step s = .next t → ControlKept s t ∧ MemoryKept s t

/-- R222: PACM sets PSTATE.PACM to 1 where its effects are enabled (which they are on a full implementation only,
R223, R224), and no other instruction does: PSTATE.PACM is 1 after an instruction only if it was an enabled PACM, or
an exception return that restores a saved 1 to a level where the effects of PACM are enabled. -/
def Obligations.PacmIsSetOnlyByPacmOrReturn : Prop :=
  (∀ s : State, s.pacmEnabled s.pstate.el = true → ∃ t, exec .pacm s = .next t ∧ t.pstate.pacm = true) ∧
  ∀ (i : Instr) (s t : State), exec i s = .next t → t.pstate.pacm = true →
    (i = .pacm ∧ s.pacmEnabled s.pstate.el = true) ∨
    ((i = .eretaa ∨ i = .eretab) ∧ ∃ l, s.pstate.el.ownLevel = some l ∧
      (s.spsr.get l).pacm = true ∧ s.pacmEnabled (s.spsr.get l).el = true)

/-- R23, R25, R254, R255: an instruction changes PSTATE, PACM apart, only by taking an exception or as ERETAA or
ERETAB; and the condition flags only as ERETAA or ERETAB. -/
def Obligations.PstateChangesOnlyByExceptionOrReturn : Prop :=
  ∀ (i : Instr) (s t : State), exec i s = .next t → i ≠ .eretaa → i ≠ .eretab →
    t.pstate.nzcv = s.pstate.nzcv ∧
    ((∃ r, t = s.takeException r) ∨ ∃ b, t.pstate = { s.pstate with pacm := b })

/-- R250, R254, R255: the Exception level rises only by taking an exception, which puts the pc in the vector
table of the level entered. -/
def Obligations.PrivilegeRisesOnlyByException : Prop :=
  ∀ s t : State, s.Inv → step s = .next t → s.pstate.el.rank < t.pstate.el.rank →
    ∃ l : CtlLevel, t.pstate.el = l.toEL ∧ t.elr.get l = s.pc ∧ t.spsr.get l = s.pstate ∧
      t.pc = s.vbar.get l + s.cfg.vectorLower

/-- R21, R87: register number 31 of a modifier or base field reads as the current stack pointer, and any other as the
register of that number; the current stack pointer is SP_EL0, or with PSTATE.SPSel that of the current level (log 10).
No instruction writes a stack pointer but LDRAA and LDRAB with writeback and base register number 31, which write the
current one. -/
def Obligations.StackPointerWrittenOnlyByLoadWriteback : Prop :=
  (∀ s : State, s.xsp 31#5 = s.sp ∧ (∀ r, r ≠ 31#5 → s.xsp r = s.xzr r) ∧
    (s.pstate.spSel = false → s.sp = s.sps.el0) ∧
    (s.pstate.spSel = true → s.sp = (match s.pstate.el with
      | .el0 => s.sps.el0
      | .el1 => s.sps.el1
      | .el2 => s.sps.el2
      | .el3 => s.sps.el3))) ∧
  ∀ (i : Instr) (s t : State), exec i s = .next t → t.sps ≠ s.sps →
    ∃ (rt : RegNum) (offset : Int) (v : Word),
      (i = .ldraaPre rt 31#5 offset ∨ i = .ldrabPre rt 31#5 offset) ∧
      t.sps = s.sps.set s.pstate.spLevel v

/-- R113, R115, R123: of the keys an instruction reads only those that are enabled, and the generic key: with any
other values in the disabled keys it does the same. -/
def Obligations.ExecReadsOnlyEnabledKeys : Prop :=
  ∀ (i : Instr) (s : State) (keys : KeyRegs),
    (∀ k, s.enabled k = true → keys.key k = s.keys.key k) → keys.genericKey = s.keys.genericKey →
    exec i (s.withKeys keys) = mapNext (fun t => t.withKeys keys) (exec i s)

/-! ## Which registers apply -/

/-- R251: the level whose SCTLR, TCR and SCTLR2 apply, and the regimes with a single VA range. That HCR_EL2.E2H counts
only where EL2 is implemented and enabled is the model's reading (log 15). -/
def Obligations.ControllingLevelAndSingleRange : Prop :=
  ∀ s : State,
    s.ctlEL .el3 = .el3 ∧ s.ctlEL .el2 = .el2 ∧ s.ctlEL .el1 = .el1 ∧
    (s.hostMode = true → s.ctlEL .el0 = .el2) ∧ (s.hostMode = false → s.ctlEL .el0 = .el1) ∧
    (s.hostMode = true ↔ s.hcrEl2.e2h = true ∧ s.hcrEl2.tge = true ∧ s.cfg.el2On = true) ∧
    (s.singleRange = true ↔
      s.ctl = .el3 ∨ (s.ctl = .el2 ∧ ¬ (s.cfg.el2On = true ∧ s.hcrEl2.e2h = true)))

/-- R115: the key register, the enable bit, the kind of address and the number of each of the four keys; PACGA uses
APGAKey_EL1 and has no enable bit: it does the same whatever SCTLR_ELx holds. -/
def Obligations.KeyAndEnableSelection : Prop :=
  ∀ s : State,
    s.keys.key .ia = s.keys.apiaKeyHi ++ s.keys.apiaKeyLo ∧ s.keys.key .ib = s.keys.apibKeyHi ++ s.keys.apibKeyLo ∧
    s.keys.key .da = s.keys.apdaKeyHi ++ s.keys.apdaKeyLo ∧ s.keys.key .db = s.keys.apdbKeyHi ++ s.keys.apdbKeyLo ∧
    s.keys.genericKey = s.keys.apgaKeyHi ++ s.keys.apgaKeyLo ∧
    s.enabled .ia = (s.sctlr.get (s.ctlEL s.pstate.el)).enIA ∧
    s.enabled .ib = (s.sctlr.get (s.ctlEL s.pstate.el)).enIB ∧
    s.enabled .da = (s.sctlr.get (s.ctlEL s.pstate.el)).enDA ∧
    s.enabled .db = (s.sctlr.get (s.ctlEL s.pstate.el)).enDB ∧
    (∀ k : KeyName, (k.isInstr = true ↔ k = .ia ∨ k = .ib) ∧ (k.number = false ↔ k = .ia ∨ k = .da)) ∧
    (∀ (sctlr : PerLevel Sctlr) (d n m : RegNum),
      exec (.pacga d n m) { s with sctlr := sctlr } =
        mapNext (fun t => { t with sctlr := sctlr }) (exec (.pacga d n m) s)) ∧
    ∀ (d n m : RegNum), s.trapPAC = none →
      exec (.pacga d n m) s =
        .next (s.setXzr d
          (genericPAC (Config.computePACG s.cfg.generic (s.xzr n) (s.xsp m) s.keys.genericKey))).retire

/-- R129: when address tagging and logical address tagging are used for a pointer of range `n`. -/
def Obligations.TaggingControls : Prop :=
  ∀ (s : State) (isInstr : Bool),
    (s.singleRange = true → ∀ n, (s.tagUsed n isInstr = true ↔
      (s.tcr.get s.ctl).tbi = true ∧ ¬ (isInstr = true ∧ (s.tcr.get s.ctl).tbid = true))) ∧
    (s.singleRange = false →
      (s.tagUsed false isInstr = true ↔
        (s.tcr.get s.ctl).tbi0 = true ∧ ¬ (isInstr = true ∧ (s.tcr.get s.ctl).tbid0 = true)) ∧
      (s.tagUsed true isInstr = true ↔
        (s.tcr.get s.ctl).tbi1 = true ∧ ¬ (isInstr = true ∧ (s.tcr.get s.ctl).tbid1 = true))) ∧
    s.latUsed false = s.cfg.latLower ∧ s.latUsed true = s.cfg.latUpper

/-- R101, R110: bottom_PAC_bit is 64 minus TnSZ where TnSZ is in the permitted range, else 64 minus one of the
three values the spec permits, as the configuration says. R109: a value below 12 requires FEAT_LVA3, so the least
permitted value is TnSZ_min with that feature and the larger of 12 and TnSZ_min without it (log 7). -/
def Obligations.BottomBitFromTnSZ : Prop :=
  ∀ (s : State) (n : Bool) (v least : Nat),
    v = (if n then (s.tcr.get s.ctl).t1sz else (s.tcr.get s.ctl).t0sz).toNat →
    least = (if s.cfg.lva3 then s.cfg.tnszMin.toNat else
      if s.cfg.tnszMin.toNat < 12 then 12 else s.cfg.tnszMin.toNat) →
    (least ≤ v → v ≤ s.cfg.tnszMax.toNat → s.bottomBit n = 64 - v) ∧
    (¬ (least ≤ v ∧ v ≤ s.cfg.tnszMax.toNat) →
      (s.cfg.tnszOor = .written → s.bottomBit n = 64 - v) ∧
      (s.cfg.tnszOor = .min → s.bottomBit n = 64 - least) ∧
      (s.cfg.tnszOor = .max → s.bottomBit n = 64 - s.cfg.tnszMax.toNat))

/-- R102, R103: the bit that selects n: bit 63 on an insertion without FEAT_CONSTPACFIELD where no range of the
regime is tagged for this kind of pointer, bit 55 otherwise. -/
def Obligations.SelectionBit : Prop :=
  ∀ (s : State) (ptr : Word) (isInstr : Bool),
    (s.cfg.constPacField = true → ∀ ins, s.selectBit ptr isInstr ins = ptr.getLsbD 55) ∧
    s.selectBit ptr isInstr false = ptr.getLsbD 55 ∧
    (s.tagUsed false isInstr = true → s.selectBit ptr isInstr true = ptr.getLsbD 55) ∧
    (s.singleRange = false → s.tagUsed true isInstr = true → s.selectBit ptr isInstr true = ptr.getLsbD 55) ∧
    (s.cfg.constPacField = false → s.tagUsed false isInstr = false →
      (s.singleRange = true ∨ s.tagUsed true isInstr = false) →
      s.selectBit ptr isInstr true = ptr.getLsbD 63)

/-- R34: the identification field of each algorithm is nonzero exactly where that algorithm is implemented. R40: its value
says which rung of the features is there, 0b0110 with FEAT_PAuth_LR over all of them (FEAT_PAuth_LR on a lower rung has
no stated value, log 35), and stands at its bits of the register (log 38); a generic field is 0b0001. -/
def Obligations.IdentificationFieldsNameTheAlgorithm : Prop :=
  ∀ s : State,
    ((s.idAa64isar1.apa ≠ 0#4 ↔ s.cfg.method.algorithm = .qarma5) ∧
      (s.idAa64isar1.api ≠ 0#4 ↔ s.cfg.method.algorithm = .imp) ∧
      (s.idAa64isar2.apa3 ≠ 0#4 ↔ s.cfg.method.algorithm = .qarma3) ∧
      (s.idAa64isar1.gpa ≠ 0#4 ↔ s.cfg.generic = .qarma5) ∧
      (s.idAa64isar1.gpi ≠ 0#4 ↔ s.cfg.generic = .imp) ∧
      (s.idAa64isar2.gpa3 ≠ 0#4 ↔ s.cfg.generic = .qarma3)) ∧
    (∀ v, (s.cfg.pauthLR = false ∧ v = (match s.cfg.level with
        | .pauth => 0b0001#4
        | .epac => 0b0010#4
        | .pauth2 => 0b0011#4
        | .fpac => 0b0100#4
        | .fpacCombine => 0b0101#4)) ∨ (s.cfg.pauthLR = true ∧ s.cfg.level = .fpacCombine ∧ v = 0b0110#4) →
      (s.cfg.method.algorithm = .qarma5 → s.idAa64isar1.apa = v) ∧
      (s.cfg.method.algorithm = .imp → s.idAa64isar1.api = v) ∧
      (s.cfg.method.algorithm = .qarma3 → s.idAa64isar2.apa3 = v)) ∧
    ((s.cfg.generic = .qarma5 → s.idAa64isar1.gpa = 0b0001#4) ∧ (s.cfg.generic = .imp → s.idAa64isar1.gpi = 0b0001#4) ∧
      (s.cfg.generic = .qarma3 → s.idAa64isar2.gpa3 = 0b0001#4)) ∧
    ∀ w : Word,
      (s.idAa64isar1.write w).extractLsb' 4 4 = s.idAa64isar1.apa ∧
      (s.idAa64isar1.write w).extractLsb' 8 4 = s.idAa64isar1.api ∧
      (s.idAa64isar1.write w).extractLsb' 24 4 = s.idAa64isar1.gpa ∧
      (s.idAa64isar1.write w).extractLsb' 28 4 = s.idAa64isar1.gpi ∧
      (s.idAa64isar2.write w).extractLsb' 8 4 = s.idAa64isar2.gpa3 ∧
      (s.idAa64isar2.write w).extractLsb' 12 4 = s.idAa64isar2.apa3

/-! ## The PAC field and the shared functions -/

/-- R104 to R106: the bits of the PAC field, for every bottom_PAC_bit `b`. -/
def Obligations.PacFieldPositions : Prop :=
  ∀ (b : Nat) (lat single : Bool) (i : Nat), i < 64 →
    ((pacFieldMask b true lat single).getLsbD i = true ↔
      if 52 < b ∧ single = true then b ≤ i ∧ i ≤ 55 else b ≤ i ∧ i ≤ 54) ∧
    ((pacFieldMask b false true single).getLsbD i = true ↔
      60 ≤ i ∨ if 52 < b ∧ single = true then b ≤ i ∧ i ≤ 55 else b ≤ i ∧ i ≤ 54) ∧
    ((pacFieldMask b false false single).getLsbD i = true ↔
      if 52 < b ∧ single = true then b ≤ i else 56 ≤ i ∨ (b ≤ i ∧ i ≤ 54))

/-- R73: an address is canonical when every checked bit equals bit 55 and, in a regime with a single VA range,
is 0. The checked bits are [55:b] with address tagging, [63:60] and [55:b] with logical address tagging, [63:b]
otherwise. The range is that of bit 55 where there are two (log 24). -/
def Obligations.CanonicalAddressTest : Prop :=
  ∀ (s : State) (addr : Word) (isInstr : Bool),
    s.isCanonical addr isInstr = true ↔
      ∀ i, i < 64 →
        (if s.tagUsed (s.rangeOf addr) isInstr = true then s.bottomBit (s.rangeOf addr) ≤ i ∧ i ≤ 55
         else if s.latUsed (s.rangeOf addr) = true then 60 ≤ i ∨ (s.bottomBit (s.rangeOf addr) ≤ i ∧ i ≤ 55)
         else s.bottomBit (s.rangeOf addr) ≤ i) →
        addr.getLsbD i = addr.getLsbD 55 ∧ (s.singleRange = true → addr.getLsbD i = false)

/-- R114, R124, R227: which function computes a PAC. With two modifiers and a QARMA algorithm it is ComputePAC of
one diversifier whose bits [31:0] are modifier1[35:4] and bits [63:32] modifier2[36:5], for PACIASPPC too; under
FEAT_PACIMP the two routes are separate functions. R115: an operation with key `k` computes its PAC under Key(k). -/
def Obligations.TwoModifiersAreOneDiversifier : Prop :=
  (∀ (s : State) (k : KeyName) (m : Modifiers) (data : Word),
    s.pacFor k m data = computePAC s.cfg.method (s.keys.key k) m data) ∧
  ∀ (key : PacKey) (m1 m2 d data : Word),
    (∀ method, computePAC method key (.one m1) data = Config.computePAC method.algorithm data m1 key) ∧
    (d.extractLsb' 0 32 = m1.extractLsb' 4 32 → d.extractLsb' 32 32 = m2.extractLsb' 5 32 →
      ∀ method, method = .qarma5 ∨ method = .qarma3 →
        computePAC method key (.two m1 m2) data = Config.computePAC method.algorithm data d key ∧
        computePAC method key (.explicit m1 m2) data = Config.computePAC method.algorithm data d key) ∧
    (∀ impl, computePAC (.imp impl) key (.two m1 m2) data = Config.computePAC2Imp data m1 m2 key ∧
      computePAC (.imp impl) key (.explicit m1 m2) data = Config.computePAC2ExplicitImp data m1 m2 key)

/-- R225: PSTATE.PACM gives an instruction its second modifier, with FEAT_PAuth_LR and a full implementation. -/
def Obligations.PacmGivesTheSecondModifier : Prop :=
  ∀ (s : State) (m1 m2 : Word),
    (s.cfg.pauthLR = true ∧ s.cfg.pacmTrivial = false ∧ s.pstate.pacm = true →
      s.pacmModifiers m1 m2 = .two m1 m2) ∧
    (¬ (s.cfg.pauthLR = true ∧ s.cfg.pacmTrivial = false ∧ s.pstate.pacm = true) →
      s.pacmModifiers m1 m2 = .one m1)

/-- R116: what a PAC operation knows of its pointer, for bottom_PAC_bit at most 52: the selection bit, the field of
PACFieldMask, the field and bit 55 as the positions of the extension bits. bottom_PAC_bit is that of the range the
selection bit names, or of range 0 in a regime with a single one; tagging is that of the range bit 55 names.
R117: the bits of a signed pointer. `plain` is the pointer with its extension bits set to the selection bit,
whose PAC is computed; the PAC of a non-canonical pointer is corrupted first. -/
def Obligations.SignedPointerBits : Prop :=
  (∀ (s : State) (ptr : Word) (isInstr inserting sel range : Bool) (b : Nat),
    sel = s.selectBit ptr isInstr inserting → range = (!s.singleRange && ptr.getLsbD 55) →
    b = s.bottomBit (!s.singleRange && sel) →
    (s.pacContext ptr isInstr inserting).bottom = b ∧
    (s.pacContext ptr isInstr inserting).tbi = s.tagUsed range isInstr ∧
    (b ≤ 52 →
      (s.pacContext ptr isInstr inserting).sel = sel ∧
      (s.pacContext ptr isInstr inserting).field =
        pacFieldMask b (s.tagUsed range isInstr) (s.latUsed range) s.singleRange ∧
      (s.pacContext ptr isInstr inserting).ext =
        pacFieldMask b (s.tagUsed range isInstr) (s.latUsed range) s.singleRange ||| 1#64 <<< 55)) ∧
  ∀ (cfg : Config) (c : PacContext) (pacOf : Word → Word) (ptr plain pac : Word),
    (∀ i, i < 64 → plain.getLsbD i = if c.ext.getLsbD i then c.sel else ptr.getLsbD i) →
    (c.Canonical ptr → pac = pacOf plain) →
    (¬ c.Canonical ptr → pac = corruptPAC cfg (pacOf plain) c.top) →
    ∀ i, i < 64 →
      (addPAC cfg c pacOf ptr).getLsbD i =
        if c.field.getLsbD i then
          (if cfg.featPAuth2 then xor (ptr.getLsbD i) (pac.getLsbD i) else pac.getLsbD i)
        else if c.ext.getLsbD i then c.sel
        else ptr.getLsbD i

/-- R118: the PAC of a non-canonical pointer: as computed with FEAT_PAuth2, zero with FEAT_EPAC, otherwise with
bit 62 inverted, or bit 54 with address tagging. -/
def Obligations.CorruptedPac : Prop :=
  ∀ (cfg : Config) (c : PacContext) (pac : Word),
    (cfg.featPAuth2 = true → corruptPAC cfg pac c.top = pac) ∧
    (cfg.featPAuth2 = false → cfg.featEPAC = true → corruptPAC cfg pac c.top = 0#64) ∧
    (cfg.featPAuth2 = false → cfg.featEPAC = false → ∀ i, i < 64 →
      (corruptPAC cfg pac c.top).getLsbD i =
        if i = (if c.tbi then 54 else 62) then !pac.getLsbD i else pac.getLsbD i)

/-- R119: authentication without FEAT_PAuth2. The PAC is correct when the computed PAC and the pointer agree on
every bit of the field, and is replaced with the extension bits; an incorrect one too, and then bits [62:61], or
[54:53] with address tagging, hold 01 for an A key and 10 for a B key. -/
def Obligations.AuthenticationWithoutPAuth2 : Prop :=
  ∀ (cfg : Config) (c : PacContext) (pacOf : Word → Word) (b : Bool) (ptr plain : Word),
    cfg.featPAuth2 = false →
    (∀ i, i < 64 → plain.getLsbD i = if c.ext.getLsbD i then c.sel else ptr.getLsbD i) →
    ((∀ i, i < 64 → c.field.getLsbD i = true → (pacOf plain).getLsbD i = ptr.getLsbD i) →
      auth cfg c pacOf b ptr = .correct plain) ∧
    (¬ (∀ i, i < 64 → c.field.getLsbD i = true → (pacOf plain).getLsbD i = ptr.getLsbD i) →
      ∃ r, auth cfg c pacOf b ptr = .incorrect r ∧ ∀ i, i < 64 →
        r.getLsbD i =
          if i = (if c.tbi then 54 else 62) then b
          else if i = (if c.tbi then 53 else 61) then !b
          else plain.getLsbD i)

/-- R120: authentication with FEAT_PAuth2. The computed PAC is exclusive-ORed into the field; the PAC was correct
when every bit of the field then equals the selection bit, and the result stands in either case. -/
def Obligations.AuthenticationWithPAuth2 : Prop :=
  ∀ (cfg : Config) (c : PacContext) (pacOf : Word → Word) (b : Bool) (ptr plain result : Word),
    cfg.featPAuth2 = true →
    (∀ i, i < 64 → plain.getLsbD i = if c.ext.getLsbD i then c.sel else ptr.getLsbD i) →
    (∀ i, i < 64 → result.getLsbD i =
      xor (ptr.getLsbD i) (c.field.getLsbD i && (pacOf plain).getLsbD i)) →
    ((∀ i, i < 64 → c.field.getLsbD i = true → result.getLsbD i = c.sel) →
      auth cfg c pacOf b ptr = .correct result) ∧
    (¬ (∀ i, i < 64 → c.field.getLsbD i = true → result.getLsbD i = c.sel) →
      auth cfg c pacOf b ptr = .incorrect result)

/-- R123, R245: what Authenticate gives: the pointer itself with the key disabled; a trap; the checked pointer; on
an incorrect PAC a PAC Fail exception, by FEAT_FPAC in an AUT* instruction and by FEAT_FPACCOMBINE in a combined
one, else the VA made non-canonical. FEAT_FPACCOMBINE requires FEAT_FPAC, which requires FEAT_PAuth2 (D30, log 5).
R119, R120: the check is Auth of the pointer under Key(k), in the context of an operation that does not insert. Auth
decides whether the PAC is correct, and its pointer is the one checked; that of an incorrect PAC up to bottom_PAC_bit 52,
and above, which R109 and D9 leave open, one that differs in the PAC field only, by the model's choice (log 6).
R123: Sign gives the pointer itself with the key disabled, a trap, or AddPAC of the pointer under Key(k). -/
def Obligations.AuthenticateOutcomes : Prop :=
  (∀ (s : State) (k : KeyName) (ptr : Word) (m : Modifiers) (combined : Bool),
    (s.enabled k = false → s.authenticate k ptr m combined = .ok ptr) ∧
    (s.enabled k = true → ∀ l, s.trapPAC = some l → s.authenticate k ptr m combined = .raised (.trap l)) ∧
    (s.Acts k → ∀ p, s.checkPAC k ptr m = .correct p → s.authenticate k ptr m combined = .ok p) ∧
    (s.Acts k → ∀ p, s.checkPAC k ptr m = .incorrect p →
      ((if combined then s.cfg.featFPACCOMBINE else s.cfg.featFPAC) = false →
        s.authenticate k ptr m combined = .ok p) ∧
      ((if combined then s.cfg.featFPACCOMBINE else s.cfg.featFPAC) = true →
        s.authenticate k ptr m combined = .raised (.pacFail k.failCode)))) ∧
  (∀ (s : State) (k : KeyName) (ptr : Word) (m : Modifiers) (c : PacContext) (found : AuthResult),
    c = s.pacContext ptr k.isInstr false → found = auth s.cfg c (s.pacFor k m) k.number ptr →
    (∀ p, s.checkPAC k ptr m = .correct p ↔ found = .correct p) ∧
    ∀ r, found = .incorrect r →
      (c.bottom ≤ 52 → s.checkPAC k ptr m = .incorrect r) ∧
      (52 < c.bottom → ∃ v, s.checkPAC k ptr m = .incorrect v ∧
        ∀ i, i < 64 → c.field.getLsbD i = false → v.getLsbD i = ptr.getLsbD i)) ∧
  (∀ (s : State) (k : KeyName) (ptr : Word) (m : Modifiers),
    (s.enabled k = false → s.sign k ptr m = .ok ptr) ∧
    (s.enabled k = true → ∀ l, s.trapPAC = some l → s.sign k ptr m = .raised (.trap l)) ∧
    (s.Acts k → s.sign k ptr m = .ok (addPAC s.cfg (s.pacContext ptr k.isInstr true) (s.pacFor k m) ptr))) ∧
  ∀ cfg : Config,
    (cfg.featFPACCOMBINE = true → cfg.featFPAC = true) ∧ (cfg.featFPAC = true → cfg.featPAuth2 = true)

/-- R101, R104, R105: no PAC operation changes a bit below bottom_PAC_bit or, with address tagging, the tag byte: not
Sign, not Authenticate in any outcome that gives a pointer, not Strip. For bottom_PAC_bit above 52, which R109 and D9
leave open, this is the model's choice (log 6). -/
def Obligations.PacOperationsKeepAddressBits : Prop :=
  ∀ (s : State) (k : KeyName) (ptr v : Word) (m : Modifiers) (comb : Bool) (i : Nat), i < 64 →
    (s.sign k ptr m = .ok v →
      i < (s.pacContext ptr k.isInstr true).bottom ∨
        (56 ≤ i ∧ (s.pacContext ptr k.isInstr true).tbi = true) → v.getLsbD i = ptr.getLsbD i) ∧
    (i < (s.pacContext ptr k.isInstr false).bottom ∨
        (56 ≤ i ∧ (s.pacContext ptr k.isInstr false).tbi = true) →
      (s.authenticate k ptr m comb = .ok v → v.getLsbD i = ptr.getLsbD i) ∧
      (s.strip ptr k.isInstr).getLsbD i = ptr.getLsbD i)

/-- R119, R120, R60, R73: a pointer whose PAC is incorrect is made non-canonical. This is a statement about the model's
check IsCanonical, which it applies to every fetch and load address; D17 and log 24 say that a chip with translation
disabled checks otherwise and may not fault (R61). For bottom_PAC_bit above 52, which R109 and D9 leave open, it is the
model's choice (log 6). -/
def Obligations.FailedAuthenticationIsNonCanonical : Prop :=
  ∀ (s : State) (k : KeyName) (ptr v : Word) (m : Modifiers),
    s.checkPAC k ptr m = .incorrect v → s.isCanonical v k.isInstr = false

/-- R125: for bottom_PAC_bit at most 52, a canonical pointer signed in one state authenticates, in any state with
the same keys and controls, to the pointer itself and with no exception, whatever the features and ComputePAC;
and stripping the signed pointer gives the pointer too. -/
def Obligations.SignedPointerAuthenticates : Prop :=
  ∀ (s t : State) (k : KeyName) (ptr q : Word) (m : Modifiers) (comb : Bool),
    SamePointerAuth s t → s.enabled k = true →
    (s.pacContext ptr k.isInstr true).bottom ≤ 52 → (s.pacContext ptr k.isInstr true).Canonical ptr →
    s.sign k ptr m = .ok q →
    t.authenticate k q m comb = .ok ptr ∧ t.strip q k.isInstr = ptr

/-- R121: for bottom_PAC_bit at most 52, the bits of a stripped pointer: copies of bit 55 in [55:b], and in [63:56]
without tagging or [63:60] with logical address tagging; every other bit kept. -/
def Obligations.StrippedPointerBits : Prop :=
  ∀ (s : State) (ptr : Word) (isInstr : Bool) (b : Nat),
    b = s.bottomBit (s.rangeOf ptr) → b ≤ 52 → ∀ i, i < 64 →
      (s.strip ptr isInstr).getLsbD i =
        if b ≤ i ∧ i ≤ 55 then ptr.getLsbD 55
        else if i < 56 ∨ s.tagUsed (s.rangeOf ptr) isInstr = true then ptr.getLsbD i
        else if s.latUsed (s.rangeOf ptr) = true ∧ i < 60 then ptr.getLsbD i
        else ptr.getLsbD 55

/-- R180: for bottom_PAC_bit at most 52, the result of a strip is canonical (in a regime with a single VA range,
where bit 55 is 0, as R73 requires there); stripping a canonical address changes nothing, and so does stripping
twice. -/
def Obligations.StripGivesCanonicalAddress : Prop :=
  ∀ (s : State) (ptr : Word) (isInstr : Bool), s.bottomBit (s.rangeOf ptr) ≤ 52 →
    (s.singleRange = false ∨ ptr.getLsbD 55 = false → s.isCanonical (s.strip ptr isInstr) isInstr = true) ∧
    (s.isCanonical ptr isInstr = true → s.strip ptr isInstr = ptr) ∧
    s.strip (s.strip ptr isInstr) isInstr = s.strip ptr isInstr

/-! ## Instructions that insert a PAC -/

/-- R140 to R155: PACIA, PACIB, PACDA, PACDB, PACIZA, PACIZB, PACDZA, PACDZB, PACIA1716, PACIB1716, PACIAZ,
PACIASP, PACIBZ, PACIBSP and (with FEAT_PAuth_LR) PACIASPPC, with the key enabled and no trap, complete: the
pointer register receives AddPAC of itself, and nothing else changes but the pc and PSTATE.PACM. -/
def Obligations.InsertWritesTheSignedPointer : Prop :=
  ∀ (i : Instr) (s : State) (k : KeyName) (d : RegNum) (m : Modifiers),
    insertOperands s i = some (k, d, m) → s.Acts k →
    ∃ t, exec i s = .next t ∧
      WroteRegister s t d
        (addPAC s.cfg (s.pacContext (s.xzr d) k.isInstr true) (s.pacFor k m) (s.xzr d)) (s.pc + 4#64)

/-- R123, R140, R160: an instruction that inserts or that only authenticates executes as a NOP when its key is
disabled. -/
def Obligations.DisabledKeyMakesANop : Prop :=
  ∀ (i : Instr) (s : State) (k : KeyName) (d : RegNum) (m : Modifiers),
    insertOperands s i = some (k, d, m) ∨ authenticateOperands s i = some (k, d, m) →
    s.enabled k = false → exec i s = exec .nop s

/-- R125, R140, R160, at the machine: an instruction that inserts a PAC, then an AUT* instruction with the same key,
register and modifiers, restores the pointer register and leaves every register as it was. Number 31 keeps no signed
pointer: there the insertion writes nothing (R87). -/
def Obligations.InsertThenAuthenticateRestoresThePointer : Prop :=
  ∀ (i : Instr) (s t : State) (k : KeyName) (d : RegNum) (m : Modifiers),
    insertOperands s i = some (k, d, m) → s.Acts k →
    (s.pacContext (s.xzr d) k.isInstr true).bottom ≤ 52 →
    (s.pacContext (s.xzr d) k.isInstr true).Canonical (s.xzr d) →
    exec i s = .next t →
    (d ≠ 31#5 → ∀ j, authenticateOperands t j = some (k, d, m) →
      ∃ u, exec j t = .next u ∧ RegistersKept s u ∧ StackPointersKept s u ∧ u.pc = s.pc + 8#64) ∧
    (d = 31#5 → RegistersKept s t)

/-- R155, R227: under QARMA5 or QARMA3, PACIASPPC does exactly what a PACIASP at the same pc does that a PACM
extends. -/
def Obligations.PaciasppcAgreesWithPacmRoute : Prop :=
  ∀ s : State, s.cfg.pauthLR = true → s.cfg.method = .qarma5 ∨ s.cfg.method = .qarma3 →
    s.pstate.pacm = true → exec .paciasppc s = exec .paciasp s

/-! ## Instructions that authenticate a PAC -/

/-- R160 to R174: AUTIA, AUTIB, AUTDA, AUTDB, AUTIZA, AUTIZB, AUTDZA, AUTDZB, AUTIA1716, AUTIB1716, AUTIAZ,
AUTIASP, AUTIBZ and AUTIBSP, with the key enabled, no trap and a correct PAC, complete: the pointer register receives
the pointer with the extension bits in place of its PAC. -/
def Obligations.AuthenticateWritesTheCheckedPointer : Prop :=
  ∀ (i : Instr) (s : State) (k : KeyName) (d : RegNum) (m : Modifiers) (p : Word),
    authenticateOperands s i = some (k, d, m) → s.Acts k →
    s.checkPAC k (s.xzr d) m = .correct p →
    ∃ t, exec i s = .next t ∧ WroteRegister s t d p (s.pc + 4#64)

/-- R243: an AUT* instruction whose PAC is incorrect. Without FEAT_FPAC it completes and the pointer register receives
the VA made non-canonical (above bottom_PAC_bit 52 the model's choice, log 6). With FEAT_FPAC it takes a PAC Fail
exception, with EC 0b011100 (R243) and its key's code, 00 for IA, 01 for IB, 10 for DA, 11 for DB (R160, R244), and no
register is written (R160, R249). That the exception is entered here is log 8. -/
def Obligations.AuthenticateFailureOutcomes : Prop :=
  ∀ (i : Instr) (s : State) (k : KeyName) (d : RegNum) (m : Modifiers) (p : Word),
    authenticateOperands s i = some (k, d, m) → s.Acts k →
    s.checkPAC k (s.xzr d) m = .incorrect p →
    s.isCanonical p k.isInstr = false ∧
    (s.cfg.featFPAC = false → ∃ t, exec i s = .next t ∧ WroteRegister s t d p (s.pc + 4#64)) ∧
    (s.cfg.featFPAC = true → ∃ (t : State) (code : BitVec 2),
      code = (match k with
        | .ia => 0b00#2
        | .ib => 0b01#2
        | .da => 0b10#2
        | .db => 0b11#2) ∧
      exec i s = .next t ∧ t = s.takeException (.pacFail code) ∧
      (t.esr.get (s.exceptionTarget (.pacFail code))).ec = 0b011100#6 ∧
      RegistersKept s t ∧ StackPointersKept s t ∧ ControlKept s t ∧ MemoryKept s t)

/-! ## Strip and generic -/

/-- R180 to R183: XPACI, XPACD and XPACLRI complete in every state, whatever the enables and traps: the register
receives Strip of itself. -/
def Obligations.StripWritesTheStrippedPointer : Prop :=
  ∀ (i : Instr) (s : State) (d : RegNum) (isInstr : Bool), stripOperands i = some (d, isInstr) →
    ∃ t, exec i s = .next t ∧ WroteRegister s t d (s.strip (s.xzr d) isInstr) (s.pc + 4#64)

/-- R122, R184: PACGA completes where no control traps it, whatever the enables: bits [63:32] of the destination
are those of ComputePACG of the two operands under the generic key, bits [31:0] are zero. -/
def Obligations.GenericPacFillsTheUpperHalf : Prop :=
  ∀ (s : State) (d n m : RegNum), s.trapPAC = none →
    ∃ (t : State) (v : Word), exec (.pacga d n m) s = .next t ∧ WroteRegister s t d v (s.pc + 4#64) ∧
      v.extractLsb' 0 32 = 0#32 ∧
      v.extractLsb' 32 32 =
        (Config.computePACG s.cfg.generic (s.xzr n) (s.xsp m) s.keys.genericKey).extractLsb' 32 32

/-! ## Combined instructions -/

/-- R190 to R194, R199, R200: BRAA, BRAB, BRAAZ, BRABZ, RETAA and RETAB, where Authenticate of the target register
raises nothing, complete with its result in the pc; no register is written. -/
def Obligations.CombinedBranchGoesToTheCheckedTarget : Prop :=
  ∀ (i : Instr) (s : State) (k : KeyName) (n : RegNum) (m : Modifiers) (target : Word),
    branchOperands s i = some (k, n, m) → s.authenticate k (s.xzr n) m true = .ok target →
    ∃ t, exec i s = .next t ∧ WroteNothing s t target

/-- R190, R195 to R198: BLRAA, BLRAB, BLRAAZ and BLRABZ, where Authenticate of the target register raises nothing,
complete with its result in the pc and pc + 4 in X30; the operands are read before X30 is written. -/
def Obligations.CombinedCallLinksAndBranches : Prop :=
  ∀ (i : Instr) (s : State) (k : KeyName) (n : RegNum) (m : Modifiers) (target : Word),
    linkOperands s i = some (k, n, m) → s.authenticate k (s.xzr n) m true = .ok target →
    ∃ t, exec i s = .next t ∧ WroteRegister s t 30#5 (s.pc + 4#64) target

/-- R242: a combined instruction whose PAC is incorrect. With FEAT_FPACCOMBINE it takes a PAC Fail exception, with EC
0b011100 (entered here by log 8, with the code of R244); no register is written, X30 and the base of a load included.
Without, the VA made non-canonical (above bottom_PAC_bit 52 the model's choice, log 6) becomes the pc of a branch, call or
exception return (R190, R202; that a return runs is log 17), or the base whose address a load uses (R206): a load of a
non-canonical address faults (log 24), and one of a canonical address, aligned or performed all the same (log 18), reads
the bytes at its place (log 23). -/
def Obligations.CombinedFailureOutcomes : Prop :=
  ∀ (i : Instr) (s : State) (k : KeyName) (p : Word), s.Acts k →
    (∀ c, (s.syndrome (.pacFail c)).ec = 0b011100#6) ∧
    (∀ ptr m, s.checkPAC k ptr m = .incorrect p → s.isCanonical p k.isInstr = false) ∧
    (∀ n m, branchOperands s i = some (k, n, m) ∨ linkOperands s i = some (k, n, m) →
      s.checkPAC k (s.xzr n) m = .incorrect p →
      (s.cfg.featFPACCOMBINE = true → exec i s = .next (s.takeException (.pacFail k.failCode))) ∧
      (s.cfg.featFPACCOMBINE = false → ∃ t, exec i s = .next t ∧ t.pc = p)) ∧
    (∀ l, returnKey i = some k → s.pstate.el.ownLevel = some l →
      s.checkPAC k (s.elr.get l) (.one s.sp) = .incorrect p →
      (s.cfg.featFPACCOMBINE = true → exec i s = .next (s.takeException (.pacFail k.failCode))) ∧
      (s.cfg.featFPACCOMBINE = false → ∃ t, exec i s = .next t ∧ t.pc = p)) ∧
    (∀ o, loadOperands i = some o → o.key = k → ¬ o.Overlap → o.BaseAligned s →
      s.checkPAC k (s.xsp o.base) (.one 0#64) = .incorrect p →
      (s.cfg.featFPACCOMBINE = true → exec i s = .next (s.takeException (.pacFail k.failCode))) ∧
      (s.cfg.featFPACCOMBINE = false → s.isCanonical (o.address p) false = false →
        exec i s = .next (s.takeException (.loadFault (o.address p)))) ∧
      (s.cfg.featFPACCOMBINE = false → s.isCanonical (o.address p) false = true →
        (o.address p).extractLsb' 0 3 = 0#3 ∨ s.cfg.misalignedLoad = .performs →
        ∃ t, exec i s = .next t ∧ t.pc = s.pc + 4#64 ∧
          (o.dest ≠ 31#5 → ∀ j, j < 8 → (t.xzr o.dest).extractLsb' (8 * j) 8 =
            Memory.read s.mem (s.place (o.address p) false + BitVec.ofNat 64 j).toNat)))

/-- R201: RET completes in every state with its register in the pc. R123: RETAA and RETAB with their key disabled
operate as a RET of X30. -/
def Obligations.RetBranchesAndDisabledReturnsAreRet : Prop :=
  ∀ s : State,
    (∀ n : RegNum, ∃ t, exec (.ret n) s = .next t ∧ WroteNothing s t (s.xzr n)) ∧
    (s.enabled .ia = false → exec .retaa s = exec (.ret 30#5) s) ∧
    (s.enabled .ib = false → exec .retab s = exec (.ret 30#5) s)

/-- R190, R242, C10: without FEAT_FPACCOMBINE, a combined branch or call whose PAC is incorrect completes with a
non-canonical pc, and the next step takes the fault of that fetch. That this fetch faults in every configuration is the
model's choice (log 24): R190 (3) and R61 except FEAT_PAuth2 with acceptable upper bits and translation disabled, and D17
names that as the premise of such a claim about a chip. Above bottom_PAC_bit 52 the non-canonical value is the model's
too (log 6). -/
def Obligations.FailedCombinedBranchFaultsAtTheNextFetch : Prop :=
  ∀ (i : Instr) (s : State) (k : KeyName) (n : RegNum) (m : Modifiers) (p : Word),
    branchOperands s i = some (k, n, m) ∨ linkOperands s i = some (k, n, m) → s.Acts k →
    s.cfg.featFPACCOMBINE = false → s.checkPAC k (s.xzr n) m = .incorrect p →
    ∃ t, exec i s = .next t ∧ t.pc = p ∧ step t = .next (t.takeException (.fetchFault p))

/-- R202, R203, R255: ERETAA and ERETAB above EL0, where Authenticate of ELR raises nothing, complete: the pc is its
result, PSTATE is SPSR of the current level, with PACM only where its effects are enabled at the level returned to,
and no register, special or exception register or byte of memory changes. The legality of the return is not
checked (log 17). -/
def Obligations.AuthenticatedReturnRestoresPstate : Prop :=
  ∀ (i : Instr) (s : State) (k : KeyName) (l : CtlLevel) (target : Word),
    returnKey i = some k → s.pstate.el.ownLevel = some l →
    s.authenticate k (s.elr.get l) (.one s.sp) true = .ok target →
    ∃ t, exec i s = .next t ∧ t.pc = target ∧
      t.pstate = { s.spsr.get l with pacm := (s.spsr.get l).pacm && s.pacmEnabled (s.spsr.get l).el } ∧
      RegistersKept s t ∧ StackPointersKept s t ∧ ControlKept s t ∧ ExceptionRegsKept s t ∧ MemoryKept s t

/-- R202, R155: ERETAA and ERETAB at EL0, and PACIASPPC without FEAT_PAuth_LR, take UNDEFINED. R241: its EC is 0b000000,
in the ESR of the level it is taken to (its other syndrome fields are open, log 13). -/
def Obligations.UndefinedInstructions : Prop :=
  ∀ s : State,
    (s.pstate.el = .el0 → exec .eretaa s = .next (s.takeException .undefined) ∧
      exec .eretab s = .next (s.takeException .undefined)) ∧
    (s.cfg.pauthLR = false → exec .paciasppc s = .next (s.takeException .undefined)) ∧
    (s.syndrome .undefined).ec = 0b000000#6 ∧
    ((s.takeException .undefined).esr.get (s.exceptionTarget .undefined)).ec = 0b000000#6

/-- R63, R204 to R206: LDRAA and LDRAB, offset and pre-indexed, complete where the base authenticates and the address
is canonical and, where the implementation faults misaligned loads (log 18), aligned: Xt receives the eight bytes from the
address on, the lowest first; with writeback the base receives the address. The address's tag bits take no part in
the lookup (log 23). -/
def Obligations.LoadWritesTheDoubleword : Prop :=
  ∀ (i : Instr) (s : State) (o : LoadOperands) (base : Word),
    loadOperands i = some o → ¬ o.Overlap → o.BaseAligned s →
    s.authenticate o.key (s.xsp o.base) (.one 0#64) true = .ok base →
    s.isCanonical (o.address base) false = true →
    (o.address base).extractLsb' 0 3 = 0#3 ∨ s.cfg.misalignedLoad = .performs →
    ∃ (t : State) (data : Word), exec i s = .next t ∧ Completed s t (s.pc + 4#64) ∧
      (∀ j, j < 8 → data.extractLsb' (8 * j) 8 =
        Memory.read s.mem (s.place (o.address base) false + BitVec.ofNat 64 j).toNat) ∧
      (o.dest ≠ 31#5 → t.xzr o.dest = data) ∧
      (o.writeback = true → o.base ≠ 31#5 → t.xzr o.base = o.address base) ∧
      (∀ r, r ≠ o.dest → (o.writeback = true → r ≠ o.base) → t.xzr r = s.xzr r) ∧ t.xzr 31#5 = 0#64 ∧
      t.sps = (if o.writeback = true ∧ o.base = 31#5
        then s.sps.set s.pstate.spLevel (o.address base) else s.sps)

/-- R206, D25, log 20: a load with writeback whose base is its destination is CONSTRAINED UNPREDICTABLE, and the
model refuses it by name. -/
def Obligations.OverlappingWritebackIsRefused : Prop :=
  ∀ (i : Instr) (s : State) (o : LoadOperands), loadOperands i = some o → o.Overlap →
    exec i s = .refused (.writebackToDestination o.base)

/-- R64, R71, R206, R248: a load from a non-canonical address takes VAFault(addr, load); a load whose base is a misaligned
SP takes the SP alignment exception after the trap and before the authentication; a misaligned load takes its
exception where the implementation faults it (both the model's reading, log 18). No register is written. -/
def Obligations.LoadExceptions : Prop :=
  ∀ (i : Instr) (s : State) (o : LoadOperands), loadOperands i = some o → ¬ o.Overlap →
    (o.BaseAligned s → ∀ base, s.authenticate o.key (s.xsp o.base) (.one 0#64) true = .ok base →
      (s.isCanonical (o.address base) false = false →
        exec i s = .next (s.takeException (.loadFault (o.address base)))) ∧
      (s.isCanonical (o.address base) false = true → (o.address base).extractLsb' 0 3 ≠ 0#3 →
        s.cfg.misalignedLoad = .faults →
        exec i s = .next (s.takeException (.misalignedLoad (o.address base))))) ∧
    (¬ o.BaseAligned s → s.enabled o.key = false ∨ s.trapPAC = none →
      exec i s = .next (s.takeException .spAlignment))

/-! ## PACM and NOP -/

/-- R220, R222: PACM completes in every state: PSTATE.PACM is 1 where the effects of PACM are enabled, else 0; nothing
else changes but the pc. R89: NOP completes in every state and does nothing but advance the pc and clear
PSTATE.PACM. -/
def Obligations.PacmAndNopComplete : Prop :=
  ∀ s : State,
    (∃ t, exec .pacm s = .next t ∧ t.pc = s.pc + 4#64 ∧
      t.pstate = { s.pstate with pacm := s.pacmEnabled s.pstate.el } ∧
      RegistersKept s t ∧ StackPointersKept s t ∧ ControlKept s t ∧ ExceptionRegsKept s t ∧ MemoryKept s t) ∧
    ∃ t, exec .nop s = .next t ∧ WroteNothing s t (s.pc + 4#64)

/-- R223, R224: where the effects of PACM are enabled, with SCTLR2_ELx and HCRX_EL2 taken as enabled (log 16). R24, R89: on
a PE without FEAT_PAuth_LR they are enabled nowhere, and PACM is a NOP. -/
def Obligations.PacmEnableControls : Prop :=
  ∀ s : State,
    (s.cfg.pauthLR = false → (∀ el, s.pacmEnabled el = false) ∧ exec .pacm s = exec .nop s) ∧
    (s.cfg.pauthLR = true →
      (s.cfg.pacmTrivial = true → ∀ el, s.pacmEnabled el = false) ∧
      (s.cfg.pacmTrivial = false →
        s.pacmEnabled .el3 = s.sctlr2.el3.enPACM ∧ s.pacmEnabled .el2 = s.sctlr2.el2.enPACM ∧
        (s.el2Gates = true → s.hcrxEl2.pacmEn = false →
          s.pacmEnabled .el1 = false ∧ s.pacmEnabled .el0 = false) ∧
        (s.el2Gates = false ∨ s.hcrxEl2.pacmEn = true →
          s.pacmEnabled .el1 = s.sctlr2.el1.enPACM ∧
          s.pacmEnabled .el0 = (s.sctlr2.get (s.ctlEL .el0)).enPACM0))) ∧
    (s.el2Gates = true ↔ s.cfg.el2On = true ∧ s.hostMode = false)

/-! ## Exceptions -/

/-- R254: taking an exception to a level saves PSTATE in its SPSR and the pc in its ELR, writes its ESR, writes its FAR for
an abort only, enters the level with interrupts masked and PSTATE.PACM 0 and goes to its vector; the registers of other
levels, the general registers, stack pointers, keys, controls and memory are unchanged. The entered level uses its own
stack pointer and the condition flags are kept (log 8, log 9, log 11). R244, R254: from EL0 an exception other than a trap
is taken to EL1, or to EL2 where HCR_EL2.TGE routes the exceptions of EL0 there, and from a higher level to the same level;
R244 says so of PAC Fail, and for a fetch or load fault (log 12), UNDEFINED (log 8), SP alignment and a misaligned load
(log 18) it is the model's choice. That TGE routes only where EL2 is implemented and enabled is the model's choice (log 8). -/
def Obligations.ExceptionEntry : Prop :=
  (∀ (s : State) (r : Raise), (∀ l, r ≠ .trap l) →
    (s.pstate.el = .el0 → s.cfg.el2On = true → s.hcrEl2.tge = true → s.exceptionTarget r = .el2) ∧
    (s.pstate.el = .el0 → ¬ (s.cfg.el2On = true ∧ s.hcrEl2.tge = true) → s.exceptionTarget r = .el1) ∧
    (∀ l : CtlLevel, s.pstate.el = l.toEL → s.exceptionTarget r = l)) ∧
  ∀ (s t : State) (r : Raise) (l : CtlLevel), t = s.takeException r → l = s.exceptionTarget r →
    t.spsr.get l = s.pstate ∧ t.elr.get l = s.pc ∧ t.esr.get l = s.syndrome r ∧
    t.far.get l = (match r with
      | .fetchFault a => a
      | .loadFault a => a
      | .misalignedLoad a => a
      | .pacFail _ => s.far.get l
      | .trap _ => s.far.get l
      | .undefined => s.far.get l
      | .spAlignment => s.far.get l) ∧
    (∀ l', l' ≠ l → t.spsr.get l' = s.spsr.get l' ∧ t.elr.get l' = s.elr.get l' ∧ t.esr.get l' = s.esr.get l' ∧
      t.far.get l' = s.far.get l') ∧
    t.pstate = { nzcv := s.pstate.nzcv, daif := 0b1111#4, el := l.toEL, spSel := true, pacm := false } ∧
    t.pc = s.vbar.get l + (if s.pstate.el = l.toEL then
      (if s.pstate.spSel then s.cfg.vectorSameSpx else s.cfg.vectorSameSp0) else s.cfg.vectorLower) ∧
    RegistersKept s t ∧ StackPointersKept s t ∧ ControlKept s t ∧ MemoryKept s t

/-- R244: the syndrome of a PAC Fail exception and the level it is taken to: from EL0 to EL1, or to EL2 where
HCR_EL2.TGE routes the exceptions of EL0 there; from a higher level to the same level. That TGE routes only where EL2 is
implemented and enabled is the model's choice (log 8). -/
def Obligations.PacFailSyndromeAndTarget : Prop :=
  ∀ (s : State) (code : BitVec 2),
    (s.syndrome (.pacFail code)).ec = 0b011100#6 ∧ (s.syndrome (.pacFail code)).il = true ∧
    (s.syndrome (.pacFail code)).iss.extractLsb' 0 2 = code ∧
    (s.syndrome (.pacFail code)).iss.extractLsb' 2 23 = 0#23 ∧
    (s.pstate.el = .el0 → s.cfg.el2On = true → s.hcrEl2.tge = true → s.exceptionTarget (.pacFail code) = .el2) ∧
    (s.pstate.el = .el0 → ¬ (s.cfg.el2On = true ∧ s.hcrEl2.tge = true) →
      s.exceptionTarget (.pacFail code) = .el1) ∧
    (∀ l : CtlLevel, s.pstate.el = l.toEL → s.exceptionTarget (.pacFail code) = l)

/-- R252: which PAC instructions are trapped, and to which level. HCR_EL2.API is looked at before SCR_EL3.API (the
model's reading, log 14). -/
def Obligations.TrapControls : Prop :=
  ∀ s : State,
    (s.pstate.el = .el0 ∨ s.pstate.el = .el1 → s.cfg.el2On = true → s.hostMode = false →
      s.hcrEl2.api = false → s.trapPAC = some .el2) ∧
    (¬ (s.pstate.el = .el0 ∨ s.pstate.el = .el1) ∨ s.cfg.el2On = false ∨ s.hostMode = true ∨ s.hcrEl2.api = true →
      (s.pstate.el ≠ .el3 → s.cfg.haveEL3 = true → s.scrEl3.api = false → s.trapPAC = some .el3) ∧
      (s.pstate.el = .el3 ∨ s.cfg.haveEL3 = false ∨ s.scrEl3.api = true → s.trapPAC = none)) ∧
    ∀ l, (s.syndrome (.trap l)).ec = 0b001001#6 ∧ s.exceptionTarget (.trap l) = l

/-- R123, R252: a trapped PAC instruction takes the trap, if its key is enabled, and PACGA always; nothing it would
have done happens. -/
def Obligations.TrappedInstructionTakesTheTrap : Prop :=
  ∀ (i : Instr) (s : State) (l : CtlLevel), s.trapPAC = some l →
    (∀ k, UsesKey s i k → s.enabled k = true → exec i s = .next (s.takeException (.trap l))) ∧
    (∀ d n m, i = .pacga d n m → exec i s = .next (s.takeException (.trap l)))
end

