-- ==== Sys2Proof/Laws/Bits.lean ====
section
/-! SUPPORT. The bit-field helpers, bit by bit. -/

namespace Sys2Proof.Machine

open Sys2Proof

theorem getLsbD_sliceMask (hi lo i : Nat) (h : hi < 64) :
    (sliceMask hi lo).getLsbD i = decide (lo ≤ i ∧ i ≤ hi) := by
  unfold sliceMask
  rw [BitVec.getLsbD_and, BitVec.getLsbD_ushiftRight, BitVec.getLsbD_shiftLeft]
  simp only [BitVec.getLsbD_allOnes]
  by_cases h1 : lo ≤ i <;> by_cases h2 : i ≤ hi <;> simp [h1, h2] <;> omega

theorem getLsbD_replicateBit (b : Bool) (i : Nat) :
    (replicateBit b).getLsbD i = (b && decide (i < 64)) := by
  cases b
  · simp [replicateBit]
  · show (BitVec.allOnes 64).getLsbD i = _
    rw [BitVec.getLsbD_allOnes]; simp

theorem getLsbD_fillBits (w mask : Word) (b : Bool) (i : Nat) (h : i < 64) :
    (fillBits w mask b).getLsbD i = if mask.getLsbD i then b else w.getLsbD i := by
  unfold fillBits
  rw [BitVec.getLsbD_or, BitVec.getLsbD_and, BitVec.getLsbD_and, BitVec.getLsbD_not,
    getLsbD_replicateBit]
  cases mask.getLsbD i <;> simp [h]

theorem getLsbD_oneShift (n i : Nat) (h : i < 64) : (1#64 <<< n).getLsbD i = decide (i = n) := by
  rw [BitVec.getLsbD_shiftLeft, BitVec.getLsbD_one]
  by_cases h1 : i < n
  · simp [h1]; omega
  · simp [h, h1]; omega

theorem getLsbD_setBit (w : Word) (n : Nat) (b : Bool) (i : Nat) (h : i < 64) :
    (setBit w n b).getLsbD i = if i = n then b else w.getLsbD i := by
  unfold setBit
  rw [getLsbD_fillBits _ _ _ _ h, getLsbD_oneShift _ _ h]
  by_cases h1 : i = n <;> simp [h1]

/-- Two words are equal when their 64 bits are. -/
theorem eq_of_bits {v w : Word} (h : ∀ i, i < 64 → v.getLsbD i = w.getLsbD i) : v = w :=
  BitVec.eq_of_getLsbD_eq fun i hi => h i hi

/-- Under a mask a word is zero when each of its masked bits is. -/
theorem and_eq_zero_iff (w m : Word) :
    w &&& m = 0#64 ↔ ∀ i, i < 64 → m.getLsbD i = true → w.getLsbD i = false := by
  constructor
  · intro h i hi hm
    have := congrArg (fun v => v.getLsbD i) h
    simpa [BitVec.getLsbD_and, hm] using this
  · intro h
    refine eq_of_bits fun i hi => ?_
    rw [BitVec.getLsbD_and, BitVec.getLsbD_zero]
    cases hm : m.getLsbD i
    · simp
    · simp [h i hi hm]

/-- Two words agree under a mask when each of their masked bits does. -/
theorem and_eq_and_iff (v w m : Word) :
    v &&& m = w &&& m ↔ ∀ i, i < 64 → m.getLsbD i = true → v.getLsbD i = w.getLsbD i := by
  constructor
  · intro h i hi hm
    have := congrArg (fun u => u.getLsbD i) h
    simpa [BitVec.getLsbD_and, hm] using this
  · intro h
    refine eq_of_bits fun i hi => ?_
    rw [BitVec.getLsbD_and, BitVec.getLsbD_and]
    cases hm : m.getLsbD i
    · simp
    · simp [h i hi hm]

/-- Under a mask a word is all ones when each of its masked bits is. -/
theorem and_eq_mask_iff (w m : Word) :
    w &&& m = m ↔ ∀ i, i < 64 → m.getLsbD i = true → w.getLsbD i = true := by
  constructor
  · intro h i hi hm
    have := congrArg (fun u => u.getLsbD i) h
    simpa [BitVec.getLsbD_and, hm] using this
  · intro h
    refine eq_of_bits fun i hi => ?_
    rw [BitVec.getLsbD_and]
    cases hm : m.getLsbD i
    · simp
    · simp [h i hi hm]

/-- A mask lies inside another when each of its bits does. -/
theorem and_eq_mask_iff_sub (m n : Word) :
    m &&& n = m ↔ ∀ i, i < 64 → m.getLsbD i = true → n.getLsbD i = true := by
  rw [BitVec.and_comm, and_eq_mask_iff]

end Sys2Proof.Machine
end

