-- ==== Sys2Proof/Laws/Fields.lean ====
section
/-! SUPPORT. Placing an operand in a word and reading it back: each field lies in its own bits. -/

namespace Sys2Proof

theorem getLsbD_placeLow (r : RegNum) (i : Nat) : (placeLow r).getLsbD i = r.getLsbD i := by
  unfold placeLow
  rw [BitVec.getLsbD_setWidth]
  by_cases h : i < 32
  · simp [h]
  · simp [h, BitVec.getLsbD_of_ge r i (by omega)]

theorem getLsbD_placeMid (r : RegNum) (i : Nat) :
    (placeMid r).getLsbD i = (decide (5 ≤ i) && r.getLsbD (i - 5)) := by
  unfold placeMid
  rw [BitVec.getLsbD_shiftLeft, BitVec.getLsbD_setWidth]
  by_cases h : i < 32
  · by_cases h5 : i < 5
    · simp [h, h5]
    · have : i - 5 < 32 := by omega
      simp [h, h5, this]; omega
  · simp [h, BitVec.getLsbD_of_ge r (i - 5) (by omega)]

theorem getLsbD_placeHigh (r : RegNum) (i : Nat) :
    (placeHigh r).getLsbD i = (decide (16 ≤ i) && r.getLsbD (i - 16)) := by
  unfold placeHigh
  rw [BitVec.getLsbD_shiftLeft, BitVec.getLsbD_setWidth]
  by_cases h : i < 32
  · by_cases h5 : i < 16
    · simp [h, h5]
    · have : i - 16 < 32 := by omega
      simp [h, h5, this]; omega
  · simp [h, BitVec.getLsbD_of_ge r (i - 16) (by omega)]

theorem getLsbD_placeOffset (offset : Int) (i : Nat) :
    (placeOffset offset).getLsbD i =
      ((decide (i = 22) && (BitVec.ofInt 10 (offset / 8)).getLsbD 9) ||
       (decide (12 ≤ i ∧ i ≤ 20) && (BitVec.ofInt 10 (offset / 8)).getLsbD (i - 12))) := by
  simp only [placeOffset]
  generalize BitVec.ofInt 10 (offset / 8) = v
  simp only [BitVec.getLsbD_or, BitVec.getLsbD_shiftLeft, BitVec.getLsbD_setWidth,
    BitVec.getLsbD_extractLsb']
  by_cases h : i < 32
  · congr 1
    · by_cases h22 : i < 22
      · have : i ≠ 22 := by omega
        simp [h22, this]
      · by_cases e : i = 22
        · subst e; simp
        · have : ¬ (i - 22 < 1) := by omega
          simp [e]; omega
    · by_cases h12 : i < 12
      · simp [h12]
      · by_cases h20 : i ≤ 20
        · have h1 : i - 12 < 32 := by omega
          have h2 : i - 12 < 9 := by omega
          have h3 : 12 ≤ i := by omega
          simp [h, h12, h1, h2, h3, h20]
        · have h2 : ¬ (i - 12 < 9) := by omega
          simp [h2, h20]
  · have h1 : i ≠ 22 := by omega
    have h2 : ¬ (i ≤ 20) := by omega
    simp [h, h1, h2]

/-- A bit of a word that is zero under a constant. -/
theorem bit_eq_false {m c : InstrWord} {i : Nat} (h : m &&& c = 0#32) (hc : c.getLsbD i = true) :
    m.getLsbD i = false := by
  have := congrArg (fun w => BitVec.getLsbD w i) h
  simpa [BitVec.getLsbD_and, hc] using this

/-- A field lies outside the mask of an encoding that leaves its bits free. -/
theorem placeLow_and {m : InstrWord} (r : RegNum) (h : m &&& 0x1f#32 = 0#32) : placeLow r &&& m = 0#32 := by
  refine BitVec.eq_of_getLsbD_eq fun i hi => ?_
  rw [BitVec.getLsbD_and, getLsbD_placeLow, BitVec.getLsbD_zero]
  by_cases h5 : i < 5
  · rw [bit_eq_false h (by interval_cases i <;> rfl), Bool.and_false]
  · simp [BitVec.getLsbD_of_ge r i (by omega)]

theorem placeMid_and {m : InstrWord} (r : RegNum) (h : m &&& 0x3e0#32 = 0#32) : placeMid r &&& m = 0#32 := by
  refine BitVec.eq_of_getLsbD_eq fun i hi => ?_
  rw [BitVec.getLsbD_and, getLsbD_placeMid, BitVec.getLsbD_zero]
  by_cases h5 : 5 ≤ i ∧ i < 10
  · obtain ⟨h5, h10⟩ := h5
    rw [bit_eq_false h (by interval_cases i <;> rfl), Bool.and_false]
  · by_cases h5' : 5 ≤ i
    · simp [BitVec.getLsbD_of_ge r (i - 5) (by omega)]
    · simp [h5']

theorem placeHigh_and {m : InstrWord} (r : RegNum) (h : m &&& 0x1f0000#32 = 0#32) :
    placeHigh r &&& m = 0#32 := by
  refine BitVec.eq_of_getLsbD_eq fun i hi => ?_
  rw [BitVec.getLsbD_and, getLsbD_placeHigh, BitVec.getLsbD_zero]
  by_cases h5 : 16 ≤ i ∧ i < 21
  · obtain ⟨h5, h10⟩ := h5
    rw [bit_eq_false h (by interval_cases i <;> rfl), Bool.and_false]
  · by_cases h5' : 16 ≤ i
    · simp [BitVec.getLsbD_of_ge r (i - 16) (by omega)]
    · simp [h5']

theorem placeOffset_and {m : InstrWord} (offset : Int) (h : m &&& 0x5ff000#32 = 0#32) :
    placeOffset offset &&& m = 0#32 := by
  refine BitVec.eq_of_getLsbD_eq fun i hi => ?_
  rw [BitVec.getLsbD_and, getLsbD_placeOffset, BitVec.getLsbD_zero]
  by_cases h5 : i = 22 ∨ (12 ≤ i ∧ i ≤ 20)
  · have hc : (0x5ff000#32).getLsbD i = true := by
      rcases h5 with rfl | ⟨h5, h10⟩
      · rfl
      · interval_cases i <;> rfl
    rw [bit_eq_false h hc, Bool.and_false]
  · have h1 : i ≠ 22 := fun e => h5 (.inl e)
    have h2 : ¬ (12 ≤ i ∧ i ≤ 20) := fun e => h5 (.inr e)
    rw [decide_eq_false h1, decide_eq_false h2]; rfl

/-- The byte offset that a word holds is the one placed, when it has an encoding. -/
theorem ofInt_toInt_offset {offset : Int} (h : (offsetScaled offset && offsetInRange offset) = true) :
    8 * (BitVec.ofInt 10 (offset / 8)).toInt = offset := by
  simp only [offsetScaled, offsetInRange, Bool.and_eq_true, beq_iff_eq, decide_eq_true_eq] at h
  rw [BitVec.toInt_ofInt, Int.bmod_def]
  split <;> omega

/-! ## Reading a field back -/

theorem or_and (a b m : InstrWord) : (a ||| b) &&& m = (a &&& m) ||| (b &&& m) := by
  refine BitVec.eq_of_getLsbD_eq fun i _ => ?_
  simp [BitVec.getLsbD_and, BitVec.getLsbD_or, Bool.and_or_distrib_right]

@[simp] theorem fieldLow_or (a b : InstrWord) : fieldLow (a ||| b) = fieldLow a ||| fieldLow b := by
  simp [fieldLow, BitVec.extractLsb'_or]

@[simp] theorem fieldMid_or (a b : InstrWord) : fieldMid (a ||| b) = fieldMid a ||| fieldMid b := by
  simp [fieldMid, BitVec.extractLsb'_or]

@[simp] theorem fieldHigh_or (a b : InstrWord) : fieldHigh (a ||| b) = fieldHigh a ||| fieldHigh b := by
  simp [fieldHigh, BitVec.extractLsb'_or]

@[simp] theorem fieldLow_placeLow (r : RegNum) : fieldLow (placeLow r) = r := by
  refine BitVec.eq_of_getLsbD_eq fun i hi => ?_
  rw [fieldLow, BitVec.getLsbD_extractLsb', getLsbD_placeLow]; simp [hi]

@[simp] theorem fieldLow_placeMid (r : RegNum) : fieldLow (placeMid r) = 0#5 := by
  refine BitVec.eq_of_getLsbD_eq fun i hi => ?_
  rw [fieldLow, BitVec.getLsbD_extractLsb', getLsbD_placeMid]
  have : ¬ 5 ≤ 0 + i := by omega
  rw [decide_eq_false this]; simp

@[simp] theorem fieldLow_placeHigh (r : RegNum) : fieldLow (placeHigh r) = 0#5 := by
  refine BitVec.eq_of_getLsbD_eq fun i hi => ?_
  rw [fieldLow, BitVec.getLsbD_extractLsb', getLsbD_placeHigh]
  have : ¬ 16 ≤ 0 + i := by omega
  rw [decide_eq_false this]; simp

@[simp] theorem fieldLow_placeOffset (offset : Int) : fieldLow (placeOffset offset) = 0#5 := by
  refine BitVec.eq_of_getLsbD_eq fun i hi => ?_
  rw [fieldLow, BitVec.getLsbD_extractLsb', getLsbD_placeOffset]
  have h1 : ¬ 0 + i = 22 := by omega
  have h2 : ¬ (12 ≤ 0 + i ∧ 0 + i ≤ 20) := by omega
  rw [decide_eq_false h1, decide_eq_false h2]; simp

@[simp] theorem fieldMid_placeLow (r : RegNum) : fieldMid (placeLow r) = 0#5 := by
  refine BitVec.eq_of_getLsbD_eq fun i hi => ?_
  rw [fieldMid, BitVec.getLsbD_extractLsb', getLsbD_placeLow, BitVec.getLsbD_of_ge r _ (by omega)]
  simp

@[simp] theorem fieldMid_placeMid (r : RegNum) : fieldMid (placeMid r) = r := by
  refine BitVec.eq_of_getLsbD_eq fun i hi => ?_
  rw [fieldMid, BitVec.getLsbD_extractLsb', getLsbD_placeMid]
  simp [hi]

@[simp] theorem fieldMid_placeHigh (r : RegNum) : fieldMid (placeHigh r) = 0#5 := by
  refine BitVec.eq_of_getLsbD_eq fun i hi => ?_
  rw [fieldMid, BitVec.getLsbD_extractLsb', getLsbD_placeHigh]
  have : ¬ 16 ≤ 5 + i := by omega
  rw [decide_eq_false this]; simp

@[simp] theorem fieldMid_placeOffset (offset : Int) : fieldMid (placeOffset offset) = 0#5 := by
  refine BitVec.eq_of_getLsbD_eq fun i hi => ?_
  rw [fieldMid, BitVec.getLsbD_extractLsb', getLsbD_placeOffset]
  have h1 : ¬ 5 + i = 22 := by omega
  have h2 : ¬ (12 ≤ 5 + i ∧ 5 + i ≤ 20) := by omega
  rw [decide_eq_false h1, decide_eq_false h2]; simp

@[simp] theorem fieldHigh_placeLow (r : RegNum) : fieldHigh (placeLow r) = 0#5 := by
  refine BitVec.eq_of_getLsbD_eq fun i hi => ?_
  rw [fieldHigh, BitVec.getLsbD_extractLsb', getLsbD_placeLow, BitVec.getLsbD_of_ge r _ (by omega)]
  simp

@[simp] theorem fieldHigh_placeMid (r : RegNum) : fieldHigh (placeMid r) = 0#5 := by
  refine BitVec.eq_of_getLsbD_eq fun i hi => ?_
  rw [fieldHigh, BitVec.getLsbD_extractLsb', getLsbD_placeMid, BitVec.getLsbD_of_ge r _ (by omega)]
  simp

@[simp] theorem fieldHigh_placeHigh (r : RegNum) : fieldHigh (placeHigh r) = r := by
  refine BitVec.eq_of_getLsbD_eq fun i hi => ?_
  rw [fieldHigh, BitVec.getLsbD_extractLsb', getLsbD_placeHigh]
  simp [hi]

/-- S:imm9 of a load word is the scaled offset that was placed. -/
theorem scaled_placeOffset {c : InstrWord} (t n : RegNum) (offset : Int) (hc : c &&& 0x5ff000#32 = 0#32) :
    (c ||| placeLow t ||| placeMid n ||| placeOffset offset).extractLsb' 22 1 ++
      (c ||| placeLow t ||| placeMid n ||| placeOffset offset).extractLsb' 12 9 =
      BitVec.ofInt 10 (offset / 8) := by
  have bit : ∀ i, (i = 22 ∨ 12 ≤ i ∧ i ≤ 20) →
      (c ||| placeLow t ||| placeMid n ||| placeOffset offset).getLsbD i =
        (placeOffset offset).getLsbD i := by
    intro i hi
    have hm : (0x5ff000#32).getLsbD i = true := by
      rcases hi with rfl | ⟨h5, h10⟩
      · rfl
      · interval_cases i <;> rfl
    have hr : 12 ≤ i := by omega
    rw [BitVec.getLsbD_or, BitVec.getLsbD_or, BitVec.getLsbD_or, bit_eq_false hc hm, getLsbD_placeLow,
      getLsbD_placeMid, BitVec.getLsbD_of_ge t i (by omega), BitVec.getLsbD_of_ge n (i - 5) (by omega)]
    simp
  refine BitVec.eq_of_getLsbD_eq fun j hj => ?_
  rw [BitVec.getLsbD_append, BitVec.getLsbD_extractLsb', BitVec.getLsbD_extractLsb']
  by_cases h9 : j < 9
  · have h1 : ¬ (12 + j = 22) := by omega
    have h2 : 12 ≤ 12 + j ∧ 12 + j ≤ 20 := by omega
    rw [bit (12 + j) (.inr h2), getLsbD_placeOffset, decide_eq_false h1, decide_eq_true h2]
    simp [h9]
  · have h : j = 9 := by omega
    subst h
    rw [bit (22 + (9 - 9)) (.inl rfl), getLsbD_placeOffset]
    simp

theorem fieldOffset_word {c : InstrWord} {t n : RegNum} {offset : Int} (hc : c &&& 0x5ff000#32 = 0#32)
    (hw : (offsetScaled offset && offsetInRange offset) = true) :
    fieldOffset (c ||| placeLow t ||| placeMid n ||| placeOffset offset) = offset := by
  rw [fieldOffset, scaled_placeOffset t n offset hc, ofInt_toInt_offset hw]

end Sys2Proof
end

