-- ==== Sys2Proof/Laws/Memory.lean ====
section
/-! SUPPORT. The laws of memory: every operation keeps the canonical form, a read after a write gives the
value written, and a write leaves every other byte alone. -/

namespace Sys2Proof.Machine

open Sys2Proof

theorem Memory.read_below {m : Memory} {lo a : Nat} (h : Memory.risesFrom lo m = true) (ha : a ≤ lo) :
    Memory.read m a = Memory.unlisted := by
  induction m generalizing lo with
  | nil => rfl
  | cons c rest ih =>
    obtain ⟨k, v⟩ := c
    simp only [Memory.risesFrom, Bool.and_eq_true, decide_eq_true_eq] at h
    have hk : k ≠ a := by omega
    simp only [Memory.read, hk, if_false]
    exact ih h.2 (by omega)

theorem Memory.risesFrom_mono {m : Memory} {lo lo' : Nat} (h : Memory.risesFrom lo m = true)
    (hl : lo' ≤ lo) : Memory.risesFrom lo' m = true := by
  cases m with
  | nil => rfl
  | cons c rest =>
    obtain ⟨k, v⟩ := c
    simp only [Memory.risesFrom, Bool.and_eq_true, decide_eq_true_eq] at h ⊢
    exact ⟨⟨by omega, h.1.2⟩, h.2⟩

theorem Memory.wf_of_risesFrom {m : Memory} {lo : Nat} (h : Memory.risesFrom lo m = true) :
    Memory.wf m = true := by
  cases m with
  | nil => rfl
  | cons c rest =>
    obtain ⟨k, v⟩ := c
    simp only [Memory.risesFrom, Memory.wf, Bool.and_eq_true, decide_eq_true_eq] at h ⊢
    exact ⟨h.1.2, h.2⟩

theorem Memory.place_risesFrom {lo a : Nat} (v : Byte) {rest : Memory} (hl : lo < a)
    (h : Memory.risesFrom a rest = true) : Memory.risesFrom lo (Memory.place a v rest) = true := by
  unfold Memory.place
  split
  · exact Memory.risesFrom_mono h (by omega)
  · next hv => simp [Memory.risesFrom, hl, hv, h]

theorem Memory.place_wf {a : Nat} (v : Byte) {rest : Memory}
    (h : Memory.risesFrom a rest = true) : Memory.wf (Memory.place a v rest) = true := by
  unfold Memory.place
  split
  · exact Memory.wf_of_risesFrom h
  · next hv => simp [Memory.wf, hv, h]

theorem Memory.write_risesFrom {m : Memory} {lo a : Nat} (v : Byte) (hl : lo < a)
    (h : Memory.risesFrom lo m = true) : Memory.risesFrom lo (Memory.write m a v) = true := by
  induction m generalizing lo with
  | nil => exact Memory.place_risesFrom v hl rfl
  | cons c rest ih =>
    obtain ⟨k, w⟩ := c
    simp only [Memory.risesFrom, Bool.and_eq_true, decide_eq_true_eq] at h
    unfold Memory.write
    split
    · next hak =>
      exact Memory.place_risesFrom v hl (by simp [Memory.risesFrom, hak, h.1.2, h.2])
    · split
      · next hak => subst hak; exact Memory.place_risesFrom v hl h.2
      · have := ih (lo := k) (by omega) h.2
        simp [Memory.risesFrom, h.1.1, h.1.2, this]

/-- A write keeps the canonical form. -/
theorem Memory.write_wf {m : Memory} (a : Nat) (v : Byte) (h : Memory.wf m = true) :
    Memory.wf (Memory.write m a v) = true := by
  cases m with
  | nil => exact Memory.place_wf v rfl
  | cons c rest =>
    obtain ⟨k, w⟩ := c
    simp only [Memory.wf, Bool.and_eq_true, decide_eq_true_eq] at h
    unfold Memory.write
    split
    · next hak => exact Memory.place_wf v (by simp [Memory.risesFrom, hak, h.1, h.2])
    · split
      · next hak => subst hak; exact Memory.place_wf v h.2
      · have := Memory.write_risesFrom (lo := k) (a := a) v (by omega) h.2
        simp [Memory.wf, h.1, this]

/-- Writing consecutive bytes keeps the canonical form. -/
theorem Memory.writeBytes_wf {m : Memory} (a : Word) (bs : List Byte) (h : Memory.wf m = true) :
    Memory.wf (Memory.writeBytes m a bs) = true := by
  induction bs generalizing m a with
  | nil => exact h
  | cons b rest ih => exact ih _ (Memory.write_wf _ _ h)

theorem Memory.read_place_same {a : Nat} (v : Byte) {rest : Memory}
    (h : Memory.risesFrom a rest = true) : Memory.read (Memory.place a v rest) a = v := by
  unfold Memory.place
  split
  · next hv => rw [hv]; exact Memory.read_below h (Nat.le_refl a)
  · simp [Memory.read]

theorem Memory.read_place_other {a b : Nat} (v : Byte) (rest : Memory) (h : b ≠ a) :
    Memory.read (Memory.place a v rest) b = Memory.read rest b := by
  unfold Memory.place
  split
  · rfl
  · simp [Memory.read, Ne.symm h]

theorem Memory.read_write_same_of_risesFrom {m : Memory} {lo a : Nat} (v : Byte) (hl : lo < a)
    (h : Memory.risesFrom lo m = true) : Memory.read (Memory.write m a v) a = v := by
  induction m generalizing lo with
  | nil => exact Memory.read_place_same v rfl
  | cons c rest ih =>
    obtain ⟨k, w⟩ := c
    simp only [Memory.risesFrom, Bool.and_eq_true, decide_eq_true_eq] at h
    unfold Memory.write
    split
    · next hak => exact Memory.read_place_same v (by simp [Memory.risesFrom, hak, h.1.2, h.2])
    · split
      · next hak => subst hak; exact Memory.read_place_same v h.2
      · next h1 h2 =>
        have hk : k ≠ a := fun e => h2 e.symm
        simp only [Memory.read, hk, if_false]
        exact ih (lo := k) (by omega) h.2

/-- A read after a write to the same address gives the byte written. -/
theorem Memory.read_write_same {m : Memory} (a : Nat) (v : Byte) (h : Memory.wf m = true) :
    Memory.read (Memory.write m a v) a = v := by
  cases m with
  | nil => exact Memory.read_place_same v rfl
  | cons c rest =>
    obtain ⟨k, w⟩ := c
    simp only [Memory.wf, Bool.and_eq_true, decide_eq_true_eq] at h
    unfold Memory.write
    split
    · next hak => exact Memory.read_place_same v (by simp [Memory.risesFrom, hak, h.1, h.2])
    · split
      · next hak => subst hak; exact Memory.read_place_same v h.2
      · next h1 h2 =>
        have hk : k ≠ a := fun e => h2 e.symm
        simp only [Memory.read, hk, if_false]
        exact Memory.read_write_same_of_risesFrom v (by omega) h.2

/-- A write leaves every other byte alone. -/
theorem Memory.read_write_other (m : Memory) {a b : Nat} (v : Byte) (h : b ≠ a) :
    Memory.read (Memory.write m a v) b = Memory.read m b := by
  induction m with
  | nil => exact Memory.read_place_other v [] h
  | cons c rest ih =>
    obtain ⟨k, w⟩ := c
    unfold Memory.write
    split
    · exact Memory.read_place_other v _ h
    · split
      · next hak =>
        subst hak
        rw [Memory.read_place_other v rest h]
        simp [Memory.read, Ne.symm h]
      · simp only [Memory.read, ih]

/-- Four bytes written one after the other are read back; the addresses may wrap. -/
theorem Memory.readBytes_writeBytes4 {m : Memory} (a : Word) (b0 b1 b2 b3 : Byte)
    (h : Memory.wf m = true) :
    Memory.readBytes (Memory.writeBytes m a [b0, b1, b2, b3]) a 4 = [b0, b1, b2, b3] := by
  have d : ∀ x y : Word, x ≠ y → x.toNat ≠ y.toNat := fun x y hxy e => hxy (BitVec.eq_of_toNat_eq e)
  have h01 := d a (a + 1#64) (by bv_omega)
  have h02 := d a (a + 1#64 + 1#64) (by bv_omega)
  have h03 := d a (a + 1#64 + 1#64 + 1#64) (by bv_omega)
  have h12 := d (a + 1#64) (a + 1#64 + 1#64) (by bv_omega)
  have h13 := d (a + 1#64) (a + 1#64 + 1#64 + 1#64) (by bv_omega)
  have h23 := d (a + 1#64 + 1#64) (a + 1#64 + 1#64 + 1#64) (by bv_omega)
  have w0 := Memory.write_wf a.toNat b0 h
  have w1 := Memory.write_wf (a + 1#64).toNat b1 w0
  have w2 := Memory.write_wf (a + 1#64 + 1#64).toNat b2 w1
  simp only [Memory.writeBytes, Memory.readBytes]
  rw [Memory.read_write_same _ _ w2, Memory.read_write_other _ _ h23, Memory.read_write_same _ _ w1,
    Memory.read_write_other _ _ h13, Memory.read_write_other _ _ h12, Memory.read_write_same _ _ w0,
    Memory.read_write_other _ _ h03, Memory.read_write_other _ _ h02, Memory.read_write_other _ _ h01,
    Memory.read_write_same _ _ h]

/-- As many bytes are read as are asked for. -/
theorem Memory.readBytes_length (m : Memory) (a : Word) (n : Nat) :
    (Memory.readBytes m a n).length = n := by
  induction n generalizing a with
  | zero => rfl
  | succ n ih => simp [Memory.readBytes, ih]

end Sys2Proof.Machine
end

