-- ==== Sys2Proof/Laws/State.lean ====
section
/-! SUPPORT. One lemma per field per named update of State, so that no later proof unfolds a record update,
and the reading laws of the register file. -/

namespace Sys2Proof.Machine

open Sys2Proof

/-! ## setXzr -/

@[simp] theorem setXzr_x (s : State) (i : RegNum) (v : Word) : (s.setXzr i v).x = writeX s.x i v := rfl
@[simp] theorem setXzr_sps (s : State) (i : RegNum) (v : Word) : (s.setXzr i v).sps = s.sps := rfl
@[simp] theorem setXzr_pc (s : State) (i : RegNum) (v : Word) : (s.setXzr i v).pc = s.pc := rfl
@[simp] theorem setXzr_pstate (s : State) (i : RegNum) (v : Word) : (s.setXzr i v).pstate = s.pstate := rfl
@[simp] theorem setXzr_keys (s : State) (i : RegNum) (v : Word) : (s.setXzr i v).keys = s.keys := rfl
@[simp] theorem setXzr_sctlr (s : State) (i : RegNum) (v : Word) : (s.setXzr i v).sctlr = s.sctlr := rfl
@[simp] theorem setXzr_tcr (s : State) (i : RegNum) (v : Word) : (s.setXzr i v).tcr = s.tcr := rfl
@[simp] theorem setXzr_sctlr2 (s : State) (i : RegNum) (v : Word) : (s.setXzr i v).sctlr2 = s.sctlr2 := rfl
@[simp] theorem setXzr_hcrxEl2 (s : State) (i : RegNum) (v : Word) : (s.setXzr i v).hcrxEl2 = s.hcrxEl2 := rfl
@[simp] theorem setXzr_hcrEl2 (s : State) (i : RegNum) (v : Word) : (s.setXzr i v).hcrEl2 = s.hcrEl2 := rfl
@[simp] theorem setXzr_scrEl3 (s : State) (i : RegNum) (v : Word) : (s.setXzr i v).scrEl3 = s.scrEl3 := rfl
@[simp] theorem setXzr_elr (s : State) (i : RegNum) (v : Word) : (s.setXzr i v).elr = s.elr := rfl
@[simp] theorem setXzr_spsr (s : State) (i : RegNum) (v : Word) : (s.setXzr i v).spsr = s.spsr := rfl
@[simp] theorem setXzr_esr (s : State) (i : RegNum) (v : Word) : (s.setXzr i v).esr = s.esr := rfl
@[simp] theorem setXzr_far (s : State) (i : RegNum) (v : Word) : (s.setXzr i v).far = s.far := rfl
@[simp] theorem setXzr_vbar (s : State) (i : RegNum) (v : Word) : (s.setXzr i v).vbar = s.vbar := rfl
@[simp] theorem setXzr_dspsrEl0Pacm (s : State) (i : RegNum) (v : Word) :
    (s.setXzr i v).dspsrEl0Pacm = s.dspsrEl0Pacm := rfl
@[simp] theorem setXzr_mem (s : State) (i : RegNum) (v : Word) : (s.setXzr i v).mem = s.mem := rfl
@[simp] theorem setXzr_freeIdx (s : State) (i : RegNum) (v : Word) : (s.setXzr i v).freeIdx = s.freeIdx := rfl
@[simp] theorem setXzr_cfg (s : State) (i : RegNum) (v : Word) : (s.setXzr i v).cfg = s.cfg := rfl

/-! ## setSp -/

@[simp] theorem setSp_x (s : State) (v : Word) : (s.setSp v).x = s.x := rfl
@[simp] theorem setSp_sps (s : State) (v : Word) : (s.setSp v).sps = s.sps.set s.pstate.spLevel v := rfl
@[simp] theorem setSp_pc (s : State) (v : Word) : (s.setSp v).pc = s.pc := rfl
@[simp] theorem setSp_pstate (s : State) (v : Word) : (s.setSp v).pstate = s.pstate := rfl
@[simp] theorem setSp_keys (s : State) (v : Word) : (s.setSp v).keys = s.keys := rfl
@[simp] theorem setSp_sctlr (s : State) (v : Word) : (s.setSp v).sctlr = s.sctlr := rfl
@[simp] theorem setSp_tcr (s : State) (v : Word) : (s.setSp v).tcr = s.tcr := rfl
@[simp] theorem setSp_sctlr2 (s : State) (v : Word) : (s.setSp v).sctlr2 = s.sctlr2 := rfl
@[simp] theorem setSp_hcrxEl2 (s : State) (v : Word) : (s.setSp v).hcrxEl2 = s.hcrxEl2 := rfl
@[simp] theorem setSp_hcrEl2 (s : State) (v : Word) : (s.setSp v).hcrEl2 = s.hcrEl2 := rfl
@[simp] theorem setSp_scrEl3 (s : State) (v : Word) : (s.setSp v).scrEl3 = s.scrEl3 := rfl
@[simp] theorem setSp_elr (s : State) (v : Word) : (s.setSp v).elr = s.elr := rfl
@[simp] theorem setSp_spsr (s : State) (v : Word) : (s.setSp v).spsr = s.spsr := rfl
@[simp] theorem setSp_esr (s : State) (v : Word) : (s.setSp v).esr = s.esr := rfl
@[simp] theorem setSp_far (s : State) (v : Word) : (s.setSp v).far = s.far := rfl
@[simp] theorem setSp_vbar (s : State) (v : Word) : (s.setSp v).vbar = s.vbar := rfl
@[simp] theorem setSp_dspsrEl0Pacm (s : State) (v : Word) : (s.setSp v).dspsrEl0Pacm = s.dspsrEl0Pacm := rfl
@[simp] theorem setSp_mem (s : State) (v : Word) : (s.setSp v).mem = s.mem := rfl
@[simp] theorem setSp_freeIdx (s : State) (v : Word) : (s.setSp v).freeIdx = s.freeIdx := rfl
@[simp] theorem setSp_cfg (s : State) (v : Word) : (s.setSp v).cfg = s.cfg := rfl

/-! ## setXsp -/

@[simp] theorem setXsp_x (s : State) (i : RegNum) (v : Word) :
    (s.setXsp i v).x = if i = 31#5 then s.x else writeX s.x i v := by
  unfold State.setXsp; split <;> rfl
@[simp] theorem setXsp_sps (s : State) (i : RegNum) (v : Word) :
    (s.setXsp i v).sps = if i = 31#5 then s.sps.set s.pstate.spLevel v else s.sps := by
  unfold State.setXsp; split <;> rfl
@[simp] theorem setXsp_pc (s : State) (i : RegNum) (v : Word) :
    (s.setXsp i v).pc = s.pc := by
  unfold State.setXsp; split <;> rfl
@[simp] theorem setXsp_pstate (s : State) (i : RegNum) (v : Word) :
    (s.setXsp i v).pstate = s.pstate := by
  unfold State.setXsp; split <;> rfl
@[simp] theorem setXsp_keys (s : State) (i : RegNum) (v : Word) :
    (s.setXsp i v).keys = s.keys := by
  unfold State.setXsp; split <;> rfl
@[simp] theorem setXsp_sctlr (s : State) (i : RegNum) (v : Word) :
    (s.setXsp i v).sctlr = s.sctlr := by
  unfold State.setXsp; split <;> rfl
@[simp] theorem setXsp_tcr (s : State) (i : RegNum) (v : Word) :
    (s.setXsp i v).tcr = s.tcr := by
  unfold State.setXsp; split <;> rfl
@[simp] theorem setXsp_sctlr2 (s : State) (i : RegNum) (v : Word) :
    (s.setXsp i v).sctlr2 = s.sctlr2 := by
  unfold State.setXsp; split <;> rfl
@[simp] theorem setXsp_hcrxEl2 (s : State) (i : RegNum) (v : Word) :
    (s.setXsp i v).hcrxEl2 = s.hcrxEl2 := by
  unfold State.setXsp; split <;> rfl
@[simp] theorem setXsp_hcrEl2 (s : State) (i : RegNum) (v : Word) :
    (s.setXsp i v).hcrEl2 = s.hcrEl2 := by
  unfold State.setXsp; split <;> rfl
@[simp] theorem setXsp_scrEl3 (s : State) (i : RegNum) (v : Word) :
    (s.setXsp i v).scrEl3 = s.scrEl3 := by
  unfold State.setXsp; split <;> rfl
@[simp] theorem setXsp_elr (s : State) (i : RegNum) (v : Word) :
    (s.setXsp i v).elr = s.elr := by
  unfold State.setXsp; split <;> rfl
@[simp] theorem setXsp_spsr (s : State) (i : RegNum) (v : Word) :
    (s.setXsp i v).spsr = s.spsr := by
  unfold State.setXsp; split <;> rfl
@[simp] theorem setXsp_esr (s : State) (i : RegNum) (v : Word) :
    (s.setXsp i v).esr = s.esr := by
  unfold State.setXsp; split <;> rfl
@[simp] theorem setXsp_far (s : State) (i : RegNum) (v : Word) :
    (s.setXsp i v).far = s.far := by
  unfold State.setXsp; split <;> rfl
@[simp] theorem setXsp_vbar (s : State) (i : RegNum) (v : Word) :
    (s.setXsp i v).vbar = s.vbar := by
  unfold State.setXsp; split <;> rfl
@[simp] theorem setXsp_dspsrEl0Pacm (s : State) (i : RegNum) (v : Word) :
    (s.setXsp i v).dspsrEl0Pacm = s.dspsrEl0Pacm := by
  unfold State.setXsp; split <;> rfl
@[simp] theorem setXsp_mem (s : State) (i : RegNum) (v : Word) :
    (s.setXsp i v).mem = s.mem := by
  unfold State.setXsp; split <;> rfl
@[simp] theorem setXsp_freeIdx (s : State) (i : RegNum) (v : Word) :
    (s.setXsp i v).freeIdx = s.freeIdx := by
  unfold State.setXsp; split <;> rfl
@[simp] theorem setXsp_cfg (s : State) (i : RegNum) (v : Word) :
    (s.setXsp i v).cfg = s.cfg := by
  unfold State.setXsp; split <;> rfl

/-! ## retireAt -/

@[simp] theorem retireAt_x (s : State) (n : Word) : (s.retireAt n).x = s.x := rfl
@[simp] theorem retireAt_sps (s : State) (n : Word) : (s.retireAt n).sps = s.sps := rfl
@[simp] theorem retireAt_pc (s : State) (n : Word) : (s.retireAt n).pc = n := rfl
@[simp] theorem retireAt_pstate (s : State) (n : Word) :
    (s.retireAt n).pstate = { s.pstate with pacm := false } := rfl
@[simp] theorem retireAt_keys (s : State) (n : Word) : (s.retireAt n).keys = s.keys := rfl
@[simp] theorem retireAt_sctlr (s : State) (n : Word) : (s.retireAt n).sctlr = s.sctlr := rfl
@[simp] theorem retireAt_tcr (s : State) (n : Word) : (s.retireAt n).tcr = s.tcr := rfl
@[simp] theorem retireAt_sctlr2 (s : State) (n : Word) : (s.retireAt n).sctlr2 = s.sctlr2 := rfl
@[simp] theorem retireAt_hcrxEl2 (s : State) (n : Word) : (s.retireAt n).hcrxEl2 = s.hcrxEl2 := rfl
@[simp] theorem retireAt_hcrEl2 (s : State) (n : Word) : (s.retireAt n).hcrEl2 = s.hcrEl2 := rfl
@[simp] theorem retireAt_scrEl3 (s : State) (n : Word) : (s.retireAt n).scrEl3 = s.scrEl3 := rfl
@[simp] theorem retireAt_elr (s : State) (n : Word) : (s.retireAt n).elr = s.elr := rfl
@[simp] theorem retireAt_spsr (s : State) (n : Word) : (s.retireAt n).spsr = s.spsr := rfl
@[simp] theorem retireAt_esr (s : State) (n : Word) : (s.retireAt n).esr = s.esr := rfl
@[simp] theorem retireAt_far (s : State) (n : Word) : (s.retireAt n).far = s.far := rfl
@[simp] theorem retireAt_vbar (s : State) (n : Word) : (s.retireAt n).vbar = s.vbar := rfl
@[simp] theorem retireAt_dspsrEl0Pacm (s : State) (n : Word) : (s.retireAt n).dspsrEl0Pacm = s.dspsrEl0Pacm := rfl
@[simp] theorem retireAt_mem (s : State) (n : Word) : (s.retireAt n).mem = s.mem := rfl
@[simp] theorem retireAt_freeIdx (s : State) (n : Word) : (s.retireAt n).freeIdx = s.freeIdx + 1 := rfl
@[simp] theorem retireAt_cfg (s : State) (n : Word) : (s.retireAt n).cfg = s.cfg := rfl

/-! ## retire -/

@[simp] theorem retire_x (s : State) : s.retire.x = s.x := rfl
@[simp] theorem retire_sps (s : State) : s.retire.sps = s.sps := rfl
@[simp] theorem retire_pc (s : State) : s.retire.pc = s.pc + 4#64 := rfl
@[simp] theorem retire_pstate (s : State) : s.retire.pstate = { s.pstate with pacm := false } := rfl
@[simp] theorem retire_keys (s : State) : s.retire.keys = s.keys := rfl
@[simp] theorem retire_sctlr (s : State) : s.retire.sctlr = s.sctlr := rfl
@[simp] theorem retire_tcr (s : State) : s.retire.tcr = s.tcr := rfl
@[simp] theorem retire_sctlr2 (s : State) : s.retire.sctlr2 = s.sctlr2 := rfl
@[simp] theorem retire_hcrxEl2 (s : State) : s.retire.hcrxEl2 = s.hcrxEl2 := rfl
@[simp] theorem retire_hcrEl2 (s : State) : s.retire.hcrEl2 = s.hcrEl2 := rfl
@[simp] theorem retire_scrEl3 (s : State) : s.retire.scrEl3 = s.scrEl3 := rfl
@[simp] theorem retire_elr (s : State) : s.retire.elr = s.elr := rfl
@[simp] theorem retire_spsr (s : State) : s.retire.spsr = s.spsr := rfl
@[simp] theorem retire_esr (s : State) : s.retire.esr = s.esr := rfl
@[simp] theorem retire_far (s : State) : s.retire.far = s.far := rfl
@[simp] theorem retire_vbar (s : State) : s.retire.vbar = s.vbar := rfl
@[simp] theorem retire_dspsrEl0Pacm (s : State) : s.retire.dspsrEl0Pacm = s.dspsrEl0Pacm := rfl
@[simp] theorem retire_mem (s : State) : s.retire.mem = s.mem := rfl
@[simp] theorem retire_freeIdx (s : State) : s.retire.freeIdx = s.freeIdx + 1 := rfl
@[simp] theorem retire_cfg (s : State) : s.retire.cfg = s.cfg := rfl

/-! ## takeException -/

@[simp] theorem takeException_x (s : State) (r : Raise) : (s.takeException r).x = s.x := rfl
@[simp] theorem takeException_sps (s : State) (r : Raise) : (s.takeException r).sps = s.sps := rfl
@[simp] theorem takeException_pc (s : State) (r : Raise) :
    (s.takeException r).pc = s.vbar.get (s.exceptionTarget r) + s.vectorOffset (s.exceptionTarget r) := rfl
@[simp] theorem takeException_pstate (s : State) (r : Raise) :
    (s.takeException r).pstate = s.pstate.entering (s.exceptionTarget r) := rfl
@[simp] theorem takeException_keys (s : State) (r : Raise) : (s.takeException r).keys = s.keys := rfl
@[simp] theorem takeException_sctlr (s : State) (r : Raise) : (s.takeException r).sctlr = s.sctlr := rfl
@[simp] theorem takeException_tcr (s : State) (r : Raise) : (s.takeException r).tcr = s.tcr := rfl
@[simp] theorem takeException_sctlr2 (s : State) (r : Raise) : (s.takeException r).sctlr2 = s.sctlr2 := rfl
@[simp] theorem takeException_hcrxEl2 (s : State) (r : Raise) : (s.takeException r).hcrxEl2 = s.hcrxEl2 := rfl
@[simp] theorem takeException_hcrEl2 (s : State) (r : Raise) : (s.takeException r).hcrEl2 = s.hcrEl2 := rfl
@[simp] theorem takeException_scrEl3 (s : State) (r : Raise) : (s.takeException r).scrEl3 = s.scrEl3 := rfl
@[simp] theorem takeException_elr (s : State) (r : Raise) :
    (s.takeException r).elr = s.elr.set (s.exceptionTarget r) s.pc := rfl
@[simp] theorem takeException_spsr (s : State) (r : Raise) :
    (s.takeException r).spsr = s.spsr.set (s.exceptionTarget r) s.pstate := rfl
@[simp] theorem takeException_esr (s : State) (r : Raise) :
    (s.takeException r).esr = s.esr.set (s.exceptionTarget r) (s.syndrome r) := rfl
@[simp] theorem takeException_far (s : State) (r : Raise) :
    (s.takeException r).far = r.farAfter s.far (s.exceptionTarget r) := rfl
@[simp] theorem takeException_vbar (s : State) (r : Raise) : (s.takeException r).vbar = s.vbar := rfl
@[simp] theorem takeException_dspsrEl0Pacm (s : State) (r : Raise) :
    (s.takeException r).dspsrEl0Pacm = s.dspsrEl0Pacm := rfl
@[simp] theorem takeException_mem (s : State) (r : Raise) : (s.takeException r).mem = s.mem := rfl
@[simp] theorem takeException_freeIdx (s : State) (r : Raise) : (s.takeException r).freeIdx = s.freeIdx + 1 := rfl
@[simp] theorem takeException_cfg (s : State) (r : Raise) : (s.takeException r).cfg = s.cfg := rfl

/-! ## exceptionReturn -/

@[simp] theorem exceptionReturn_x (s : State) (t : Word) (p : ProcState) : (s.exceptionReturn t p).x = s.x := rfl
@[simp] theorem exceptionReturn_sps (s : State) (t : Word) (p : ProcState) :
    (s.exceptionReturn t p).sps = s.sps := rfl
@[simp] theorem exceptionReturn_pc (s : State) (t : Word) (p : ProcState) : (s.exceptionReturn t p).pc = t := rfl
@[simp] theorem exceptionReturn_pstate (s : State) (t : Word) (p : ProcState) :
    (s.exceptionReturn t p).pstate = s.returnedPstate p := rfl
@[simp] theorem exceptionReturn_keys (s : State) (t : Word) (p : ProcState) :
    (s.exceptionReturn t p).keys = s.keys := rfl
@[simp] theorem exceptionReturn_sctlr (s : State) (t : Word) (p : ProcState) :
    (s.exceptionReturn t p).sctlr = s.sctlr := rfl
@[simp] theorem exceptionReturn_tcr (s : State) (t : Word) (p : ProcState) :
    (s.exceptionReturn t p).tcr = s.tcr := rfl
@[simp] theorem exceptionReturn_sctlr2 (s : State) (t : Word) (p : ProcState) :
    (s.exceptionReturn t p).sctlr2 = s.sctlr2 := rfl
@[simp] theorem exceptionReturn_hcrxEl2 (s : State) (t : Word) (p : ProcState) :
    (s.exceptionReturn t p).hcrxEl2 = s.hcrxEl2 := rfl
@[simp] theorem exceptionReturn_hcrEl2 (s : State) (t : Word) (p : ProcState) :
    (s.exceptionReturn t p).hcrEl2 = s.hcrEl2 := rfl
@[simp] theorem exceptionReturn_scrEl3 (s : State) (t : Word) (p : ProcState) :
    (s.exceptionReturn t p).scrEl3 = s.scrEl3 := rfl
@[simp] theorem exceptionReturn_elr (s : State) (t : Word) (p : ProcState) :
    (s.exceptionReturn t p).elr = s.elr := rfl
@[simp] theorem exceptionReturn_spsr (s : State) (t : Word) (p : ProcState) :
    (s.exceptionReturn t p).spsr = s.spsr := rfl
@[simp] theorem exceptionReturn_esr (s : State) (t : Word) (p : ProcState) :
    (s.exceptionReturn t p).esr = s.esr := rfl
@[simp] theorem exceptionReturn_far (s : State) (t : Word) (p : ProcState) :
    (s.exceptionReturn t p).far = s.far := rfl
@[simp] theorem exceptionReturn_vbar (s : State) (t : Word) (p : ProcState) :
    (s.exceptionReturn t p).vbar = s.vbar := rfl
@[simp] theorem exceptionReturn_dspsrEl0Pacm (s : State) (t : Word) (p : ProcState) :
    (s.exceptionReturn t p).dspsrEl0Pacm = s.dspsrEl0Pacm := rfl
@[simp] theorem exceptionReturn_mem (s : State) (t : Word) (p : ProcState) :
    (s.exceptionReturn t p).mem = s.mem := rfl
@[simp] theorem exceptionReturn_freeIdx (s : State) (t : Word) (p : ProcState) :
    (s.exceptionReturn t p).freeIdx = s.freeIdx + 1 := rfl
@[simp] theorem exceptionReturn_cfg (s : State) (t : Word) (p : ProcState) :
    (s.exceptionReturn t p).cfg = s.cfg := rfl

/-! ## Registers -/

@[simp] theorem readX_xzr (x : Vector Word 31) : readX x 31#5 = 0#64 := rfl

theorem readX_writeX_same (x : Vector Word 31) (i : RegNum) (v : Word) (h : i ≠ 31#5) :
    readX (writeX x i v) i = v := by
  have hi : i.toNat < 31 := by
    have := i.isLt
    have : i.toNat ≠ 31 := fun e => h (by apply BitVec.eq_of_toNat_eq; simpa using e)
    omega
  simp [readX, writeX, hi]

theorem readX_writeX_other (x : Vector Word 31) (i j : RegNum) (v : Word) (h : j ≠ i) :
    readX (writeX x i v) j = readX x j := by
  have hn : i.toNat ≠ j.toNat := fun e => h (BitVec.eq_of_toNat_eq e.symm)
  unfold readX writeX
  by_cases hi : i.toNat < 31 <;> by_cases hj : j.toNat < 31 <;> simp [hi, hj, hn]

@[simp] theorem xzr_31 (s : State) : s.xzr 31#5 = 0#64 := rfl

theorem xzr_setXzr_same (s : State) (i : RegNum) (v : Word) (h : i ≠ 31#5) : (s.setXzr i v).xzr i = v :=
  readX_writeX_same s.x i v h

theorem xzr_setXzr_other (s : State) (i j : RegNum) (v : Word) (h : j ≠ i) :
    (s.setXzr i v).xzr j = s.xzr j :=
  readX_writeX_other s.x i j v h

/-- Reading a register sees the register file alone. -/
theorem xzr_congr {s t : State} (h : t.x = s.x) (i : RegNum) : t.xzr i = s.xzr i := by
  simp [State.xzr, h]

@[simp] theorem xzr_retireAt (s : State) (n : Word) (i : RegNum) : (s.retireAt n).xzr i = s.xzr i := rfl

@[simp] theorem xzr_retire (s : State) (i : RegNum) : s.retire.xzr i = s.xzr i := rfl

@[simp] theorem xzr_takeException (s : State) (r : Raise) (i : RegNum) :
    (s.takeException r).xzr i = s.xzr i := rfl

@[simp] theorem xzr_exceptionReturn (s : State) (t : Word) (p : ProcState) (i : RegNum) :
    (s.exceptionReturn t p).xzr i = s.xzr i := rfl

@[simp] theorem xzr_setSp (s : State) (v : Word) (i : RegNum) : (s.setSp v).xzr i = s.xzr i := rfl

/-! ## Banked registers -/

@[simp] theorem get_set_same {α : Type} (r : PerLevel α) (l : CtlLevel) (v : α) : (r.set l v).get l = v := by
  cases l <;> rfl

theorem get_set_other {α : Type} (r : PerLevel α) (l l' : CtlLevel) (v : α) (h : l' ≠ l) :
    (r.set l v).get l' = r.get l' := by
  cases l <;> cases l' <;> first | rfl | exact absurd rfl h

theorem get_set {α : Type} (r : PerLevel α) (l l' : CtlLevel) (v : α) :
    (r.set l v).get l' = if l' = l then v else r.get l' := by
  split
  · next h => subst h; simp
  · next h => exact get_set_other r l l' v h

@[simp] theorem sp_get_set_same (r : StackPointers) (l : EL) (v : Word) : (r.set l v).get l = v := by
  cases l <;> rfl

theorem sp_get_set_other (r : StackPointers) (l l' : EL) (v : Word) (h : l' ≠ l) :
    (r.set l v).get l' = r.get l' := by
  cases l <;> cases l' <;> first | rfl | exact absurd rfl h

end Sys2Proof.Machine
end

