-- ==== Sys2Proof/Laws/Ops.lean ====
section
/-! SUPPORT. One lemma for each shared operation that says everything it can do, and from them what any
instruction and any step can do. -/

namespace Sys2Proof.Machine

open Sys2Proof

/-! ## Operations inside an instruction -/

/-- Sign gives the pointer itself (key disabled) or AddPAC of it. -/
theorem sign_ok {s : State} {k : KeyName} {ptr : Word} {m : Modifiers} {v : Word}
    (h : s.sign k ptr m = .ok v) :
    (s.enabled k = false ∧ v = ptr) ∨
    (s.enabled k = true ∧ s.trapPAC = none ∧
      v = addPAC s.cfg (s.pacContext ptr k.isInstr true) (s.pacFor k m) ptr) := by
  unfold State.sign at h
  split at h
  · next he =>
    split at h
    · cases h
    · next ht => injection h with h; exact .inr ⟨he, ht, h.symm⟩
  · next he => injection h with h; exact .inl ⟨by simpa using he, h.symm⟩

/-- Sign raises a trap only. -/
theorem sign_raised {s : State} {k : KeyName} {ptr : Word} {m : Modifiers} {r : Raise}
    (h : s.sign k ptr m = .raised r) :
    s.enabled k = true ∧ ∃ level, s.trapPAC = some level ∧ r = .trap level := by
  unfold State.sign at h
  split at h
  · next he =>
    split at h
    · next level ht => injection h with h; exact ⟨he, level, ht, h.symm⟩
    · cases h
  · cases h

/-- Authenticate gives the pointer itself (key disabled), the checked pointer (PAC correct), or the VA made
non-canonical (PAC incorrect where a failure does not raise). -/
theorem authenticate_ok {s : State} {k : KeyName} {ptr : Word} {m : Modifiers} {comb : Bool} {v : Word}
    (h : s.authenticate k ptr m comb = .ok v) :
    (s.enabled k = false ∧ v = ptr) ∨
    (s.enabled k = true ∧ s.trapPAC = none ∧ s.checkPAC k ptr m = .correct v) ∨
    (s.enabled k = true ∧ s.trapPAC = none ∧ s.checkPAC k ptr m = .incorrect v ∧
      failRaises s.cfg comb = false) := by
  unfold State.authenticate at h
  split at h
  · next he =>
    split at h
    · cases h
    · next ht =>
      split at h
      · next p hp => injection h with h; subst h; exact .inr (.inl ⟨he, ht, hp⟩)
      · next p hp =>
        split at h
        · cases h
        · next hf =>
          injection h with h; subst h
          exact .inr (.inr ⟨he, ht, hp, by simpa using hf⟩)
  · next he => injection h with h; exact .inl ⟨by simpa using he, h.symm⟩

/-- Authenticate raises a trap, or PACFail on an incorrect PAC where a failure raises. -/
theorem authenticate_raised {s : State} {k : KeyName} {ptr : Word} {m : Modifiers} {comb : Bool}
    {r : Raise} (h : s.authenticate k ptr m comb = .raised r) :
    s.enabled k = true ∧
    ((∃ level, s.trapPAC = some level ∧ r = .trap level) ∨
     (s.trapPAC = none ∧ (∃ p, s.checkPAC k ptr m = .incorrect p) ∧ failRaises s.cfg comb = true ∧
      r = .pacFail k.failCode)) := by
  unfold State.authenticate at h
  split at h
  · next he =>
    refine ⟨he, ?_⟩
    split at h
    · next level ht => injection h with h; exact .inl ⟨level, ht, h.symm⟩
    · next ht =>
      split at h
      · cases h
      · next p hp =>
        split at h
        · next hf => injection h with h; exact .inr ⟨ht, ⟨p, hp⟩, hf, h.symm⟩
        · cases h
  · cases h

/-- A check finds a PAC correct exactly where Auth does, with the same pointer. -/
theorem checkPAC_correct {s : State} {k : KeyName} {ptr : Word} {m : Modifiers} {v : Word} :
    s.checkPAC k ptr m = .correct v ↔
      auth s.cfg (s.pacContext ptr k.isInstr false) (s.pacFor k m) k.number ptr = .correct v := by
  simp only [State.checkPAC]
  split
  · next h => simp [h]
  · next h => simp [h]

/-- A check finds a PAC incorrect exactly where Auth does: with the pointer Auth gives up to bottom_PAC_bit 52, and an
open one above. -/
theorem checkPAC_incorrect {s : State} {k : KeyName} {ptr : Word} {m : Modifiers} {v : Word} :
    s.checkPAC k ptr m = .incorrect v ↔
      ∃ p, auth s.cfg (s.pacContext ptr k.isInstr false) (s.pacFor k m) k.number ptr = .incorrect p ∧
        v = if (s.pacContext ptr k.isInstr false).bottom ≤ 52 then p else s.openFailure ptr k.isInstr := by
  simp only [State.checkPAC]
  split
  · next h => simp [h]
  · next p h =>
    rw [AuthResult.incorrect.injEq]
    constructor
    · intro e; exact ⟨p, h, e.symm⟩
    · rintro ⟨q, hq, e⟩
      rw [h] at hq
      cases hq
      exact e.symm

/-- AddPACGA raises a trap only. -/
theorem addPACGA_raised {s : State} {a b : Word} {r : Raise} (h : s.addPACGA a b = .raised r) :
    ∃ level, s.trapPAC = some level ∧ r = .trap level := by
  unfold State.addPACGA at h
  split at h
  · next level ht => injection h with h; exact ⟨level, ht, h.symm⟩
  · cases h

/-- A load's memory access raises a load fault or the fault of a misaligned access only. -/
theorem memRead8_raised {s : State} {addr : Word} {r : Raise} (h : s.memRead8 addr = .raised r) :
    r = .loadFault addr ∨ r = .misalignedLoad addr := by
  unfold State.memRead8 at h
  split at h
  · injection h with h; exact .inl h.symm
  · split at h
    · injection h with h; exact .inr h.symm
    · cases h

/-- Which traps exist: only to a level above the current one that is present (R252). -/
theorem trapPAC_some {s : State} {level : CtlLevel} (h : s.trapPAC = some level) :
    (level = .el2 ∧ s.cfg.el2On = true ∧ (s.pstate.el = .el0 ∨ s.pstate.el = .el1)) ∨
    (level = .el3 ∧ s.cfg.haveEL3 = true ∧ s.pstate.el ≠ .el3) := by
  simp only [State.trapPAC] at h
  split at h
  · next hc =>
    injection h with h
    simp only [Bool.and_eq_true, Bool.or_eq_true, decide_eq_true_eq] at hc
    exact .inl ⟨h.symm, hc.1.1.2, hc.1.1.1⟩
  · split at h
    · next hc =>
      injection h with h
      simp only [Bool.and_eq_true, decide_eq_true_eq] at hc
      exact .inr ⟨h.symm, hc.1.2, hc.1.1⟩
    · cases h

/-- An operation's result always becomes a next state: the rest of the instruction, or an exception. -/
theorem finish_next {α : Type} {r : Res α} {s t : State} {k : α → State} (h : r.finish s k = .next t) :
    (∃ a, r = .ok a ∧ t = k a) ∨ (∃ e, r = .raised e ∧ t = s.takeException e) := by
  cases r with
  | ok a => injection h with h; exact .inl ⟨a, rfl, h.symm⟩
  | raised e => injection h with h; exact .inr ⟨e, rfl, h.symm⟩

/-! ## What an instruction can do -/

/-- An exception that an instruction can take: never one of the fetch. -/
def Raise.ofInstruction (s : State) : Raise → Prop
  | .trap level => s.trapPAC = some level
  | .fetchFault _ => False
  | .pacFail _ | .loadFault _ | .undefined | .spAlignment | .misalignedLoad _ => True

/-- A next state of an instruction other than an exception return: registers, stack pointers, the next pc
and PSTATE.PACM are all that can differ. -/
def State.ended (s : State) (x : Vector Word 31) (sps : StackPointers) (next : Word) (pacm : Bool) : State :=
  { s with x := x, sps := sps, pc := next, pstate := { s.pstate with pacm := pacm },
           freeIdx := s.freeIdx + 1 }

/-- The three shapes of a next state: an exception is taken; the instruction ends; it was an authenticated
exception return. -/
inductive Ending (i : Instr) (s t : State) : Prop where
  | exception (r : Raise) (legal : r.ofInstruction s) (next : t = s.takeException r)
  | completed (x : Vector Word 31) (sps : StackPointers) (pc : Word) (pacm : Bool)
      (stack : sps = s.sps ∨ ∃ rt off v, (i = .ldraaPre rt 31#5 off ∨ i = .ldrabPre rt 31#5 off) ∧
        sps = s.sps.set s.pstate.spLevel v)
      (flag : pacm = true → i = .pacm ∧ s.pacmEnabled s.pstate.el = true)
      (next : t = s.ended x sps pc pacm)
  | exceptionReturn (l : CtlLevel) (pc : Word) (own : s.pstate.el.ownLevel = some l)
      (instr : i = .eretaa ∨ i = .eretab) (next : t = s.exceptionReturn pc (s.spsr.get l))

theorem Ending.ofRegister {i : Instr} {s : State} (x : Vector Word 31) (next : Word) :
    Ending i s ({ s with x := x }.retireAt next) :=
  .completed x s.sps next false (.inl rfl) (by simp) rfl

theorem insertPac_ending {i : Instr} {k : KeyName} {d : RegNum} {m : Modifiers} {s t : State}
    (h : insertPac k d m s = .next t) : Ending i s t := by
  rcases finish_next h with ⟨v, _, rfl⟩ | ⟨e, he, rfl⟩
  · exact .ofRegister (writeX s.x d v) _
  · obtain ⟨_, level, ht, rfl⟩ := sign_raised he
    exact .exception (.trap level) ht rfl

theorem authenticate_raised_legal {s : State} {k : KeyName} {ptr : Word} {m : Modifiers} {comb : Bool}
    {r : Raise} (h : s.authenticate k ptr m comb = .raised r) : r.ofInstruction s := by
  obtain ⟨_, ⟨level, ht, rfl⟩ | ⟨_, _, _, rfl⟩⟩ := authenticate_raised h
  · exact ht
  · trivial

theorem authenticatePac_ending {i : Instr} {k : KeyName} {d : RegNum} {m : Modifiers} {s t : State}
    (h : authenticatePac k d m s = .next t) : Ending i s t := by
  rcases finish_next h with ⟨v, _, rfl⟩ | ⟨e, he, rfl⟩
  · exact .ofRegister (writeX s.x d v) _
  · exact .exception _ (authenticate_raised_legal he) rfl

theorem branchAuthenticated_ending {i : Instr} {k : KeyName} {p : Word} {m : Modifiers} {s t : State}
    (h : branchAuthenticated k p m s = .next t) : Ending i s t := by
  rcases finish_next h with ⟨v, _, rfl⟩ | ⟨e, he, rfl⟩
  · exact .ofRegister s.x _
  · exact .exception _ (authenticate_raised_legal he) rfl

theorem callAuthenticated_ending {i : Instr} {k : KeyName} {p : Word} {m : Modifiers} {s t : State}
    (h : callAuthenticated k p m s = .next t) : Ending i s t := by
  rcases finish_next h with ⟨v, _, rfl⟩ | ⟨e, he, rfl⟩
  · exact .ofRegister (writeX s.x regLR (s.pc + 4#64)) _
  · exact .exception _ (authenticate_raised_legal he) rfl

theorem authenticatedReturn_ending {i : Instr} {k : KeyName} {s t : State} (hi : i = .eretaa ∨ i = .eretab)
    (h : authenticatedReturn k s = .next t) : Ending i s t := by
  unfold authenticatedReturn at h
  split at h
  · injection h with h
    exact .exception .undefined trivial h.symm
  · next l hl =>
    rcases finish_next h with ⟨v, _, rfl⟩ | ⟨e, he, rfl⟩
    · exact .exceptionReturn l v hl hi rfl
    · exact .exception _ (authenticate_raised_legal he) rfl

theorem loadBase_raised_legal {s : State} {k : KeyName} {n : RegNum} {r : Raise}
    (h : s.loadBase k n = .raised r) : r.ofInstruction s := by
  unfold State.loadBase at h
  split at h
  · split at h
    · next level hl =>
      injection h with h; subst h
      split at hl
      · exact hl
      · cases hl
    · injection h with h; subst h; trivial
  · exact authenticate_raised_legal h

theorem authLoad_ending {i : Instr} {k : KeyName} {rt n : RegNum} {off : Int} {wback : Bool} {s t : State}
    (hi : wback = true → n = 31#5 → i = .ldraaPre rt 31#5 off ∨ i = .ldrabPre rt 31#5 off)
    (h : authLoad k rt n off wback s = .next t) : Ending i s t := by
  unfold authLoad at h
  split at h
  · cases h
  · split at h
    · next base _ =>
      rcases finish_next h with ⟨v, _, rfl⟩ | ⟨e, he, rfl⟩
      · cases wback with
        | false => exact .ofRegister (writeX s.x rt v) _
        | true =>
          by_cases hn : n = 31#5
          · subst hn
            exact .completed (writeX s.x rt v) _ _ false (.inr ⟨rt, off, _, hi rfl rfl, rfl⟩) (by simp) rfl
          · refine .completed (writeX (writeX s.x rt v) n (loadAddress base off)) s.sps (s.pc + 4#64) false
              (.inl rfl) (by simp) ?_
            simp only [State.afterLoad, State.setXsp, hn, if_true, if_false]
            rfl
      · rcases memRead8_raised he with rfl | rfl
        · exact .exception (.loadFault _) trivial rfl
        · exact .exception (.misalignedLoad _) trivial rfl
    · next e he =>
      injection h with h
      exact .exception e (loadBase_raised_legal he) h.symm

/-- Everything an instruction that answers a next state can do. -/
theorem exec_ending {i : Instr} {s t : State} (h : exec i s = .next t) : Ending i s t := by
  cases i <;> simp only [exec] at h
  case pacga rd rn rm =>
    rcases finish_next h with ⟨v, _, rfl⟩ | ⟨e, he, rfl⟩
    · exact .ofRegister (writeX s.x rd v) _
    · obtain ⟨level, ht, rfl⟩ := addPACGA_raised he
      exact .exception (.trap level) ht rfl
  case paciasppc =>
    unfold execPaciasppc at h
    split at h
    · exact insertPac_ending h
    · injection h with h; exact .exception .undefined trivial h.symm
  case pacm =>
    injection h with h
    exact .completed s.x s.sps (s.pc + 4#64) _ (.inl rfl) (fun e => ⟨rfl, e⟩) h.symm
  case ret => injection h with h; rw [← h]; exact .ofRegister s.x _
  case nop => injection h with h; rw [← h]; exact .ofRegister s.x _
  case xpaci => injection h with h; rw [← h]; exact .ofRegister (writeX s.x _ _) _
  case xpacd => injection h with h; rw [← h]; exact .ofRegister (writeX s.x _ _) _
  case xpaclri => injection h with h; rw [← h]; exact .ofRegister (writeX s.x _ _) _
  case eretaa => exact authenticatedReturn_ending (.inl rfl) h
  case eretab => exact authenticatedReturn_ending (.inr rfl) h
  case ldraaOffset => exact authLoad_ending (wback := false) (fun e => by cases e) h
  case ldrabOffset => exact authLoad_ending (wback := false) (fun e => by cases e) h
  case ldraaPre => exact authLoad_ending (fun _ e => by subst e; exact .inl rfl) h
  case ldrabPre => exact authLoad_ending (fun _ e => by subst e; exact .inr rfl) h
  case retaa => exact branchAuthenticated_ending h
  case retab => exact branchAuthenticated_ending h
  case braa => exact branchAuthenticated_ending h
  case brab => exact branchAuthenticated_ending h
  case braaz => exact branchAuthenticated_ending h
  case brabz => exact branchAuthenticated_ending h
  case blraa => exact callAuthenticated_ending h
  case blrab => exact callAuthenticated_ending h
  case blraaz => exact callAuthenticated_ending h
  case blrabz => exact callAuthenticated_ending h
  all_goals first | exact insertPac_ending h | exact authenticatePac_ending h

/-! ## What a step can do -/

/-- The four bytes of a fetch are those from the place of the pc on. -/
theorem readBytes_four (m : Memory) (a : Word) :
    Memory.readBytes m a 4 = [Memory.read m a.toNat, Memory.read m (a + 1#64).toNat,
      Memory.read m (a + 2#64).toNat, Memory.read m (a + 3#64).toNat] := by
  simp [Memory.readBytes, BitVec.add_assoc]

/-- A fetch at a canonical, word-aligned pc gives the word of the four bytes there, which the step executes. -/
theorem step_fetched {s : State} {b0 b1 b2 b3 : Byte} (hc : s.isCanonical s.pc true = true)
    (ha : s.pc.extractLsb' 0 2 = 0#2) (hb : Memory.readBytes s.mem (s.place s.pc true) 4 = [b0, b1, b2, b3]) :
    step s = execWord (wordOfBytes b0 b1 b2 b3) s := by
  rw [readBytes_four] at hb
  injection hb with h0 hb
  injection hb with h1 hb
  injection hb with h2 hb
  injection hb with h3
  simp only [step, State.fetch, hc, ha, Bool.not_true, Bool.false_eq_true, if_false, ne_eq, not_true_eq_false,
    h0, h1, h2, h3]

/-- What a word of no row can do. -/
theorem execNoRow_next {kind : NoRow} {w : InstrWord} {s t : State} (h : execNoRow kind w s = .next t) :
    t = s.takeException .undefined ∨ t = s.retire := by
  unfold execNoRow at h
  split at h
  · injection h with h; exact .inr h.symm
  · injection h with h; exact .inl h.symm
  · split at h
    · cases h
    · injection h with h; exact .inl h.symm
  · cases h

/-- A next state of a step: the fetch took an exception, or an unallocated word did, or an unallocated hint was a NOP,
or the decoded instruction ran. -/
theorem step_next {s t : State} (h : step s = .next t) :
    (s.isCanonical s.pc true = false ∧ t = s.takeException (.fetchFault s.pc)) ∨
    t = s.takeException .undefined ∨ t = s.retire ∨
    (∃ i, decode (Memory.readBytes s.mem (s.place s.pc true) 4) = .ok (i, []) ∧ exec i s = .next t) := by
  cases hc : s.isCanonical s.pc true
  · simp only [step, State.fetch, hc] at h
    injection h with h
    exact .inl ⟨rfl, h.symm⟩
  · by_cases ha : s.pc.extractLsb' 0 2 = 0#2
    · rw [step_fetched hc ha (readBytes_four _ _)] at h
      unfold execWord at h
      split at h
      · next i hd => exact .inr (.inr (.inr ⟨i, by rw [readBytes_four]; simp only [decode, hd], h⟩))
      · exact (execNoRow_next h).elim (fun h => .inr (.inl h)) (fun h => .inr (.inr (.inl h)))
    · simp [step, State.fetch, hc, ha] at h

end Sys2Proof.Machine
end

