-- ==== Sys2Proof/Laws/Pac.lean ====
section
/-! SUPPORT. The pieces of the PAC functions, bit by bit: the extended pointer, the error code, the canonical test
of a PAC operation, and what of a state the context of a pointer depends on. -/

namespace Sys2Proof.Machine

open Sys2Proof

theorem getLsbD_extend (c : PacContext) (p : Word) (i : Nat) (hi : i < 64) :
    (c.extend p).getLsbD i = if c.ext.getLsbD i then c.sel else p.getLsbD i :=
  getLsbD_fillBits _ _ _ _ hi

/-- A word with the bits of the extended pointer is the extended pointer. -/
theorem eq_extend {c : PacContext} {p w : Word}
    (h : ∀ i, i < 64 → w.getLsbD i = if c.ext.getLsbD i then c.sel else p.getLsbD i) : w = c.extend p :=
  eq_of_bits fun i hi => by rw [h i hi, getLsbD_extend _ _ _ hi]

theorem nonCanonical_iff (c : PacContext) (p : Word) : c.nonCanonical p = true ↔ ¬ c.Canonical p := by
  simp [PacContext.nonCanonical, PacContext.Canonical]

theorem nonCanonical_eq_false {c : PacContext} {p : Word} (h : c.Canonical p) : c.nonCanonical p = false := by
  by_contra hc
  exact (nonCanonical_iff c p).1 (by simpa using hc) h

theorem getLsbD_errorCode (c : PacContext) (b : Bool) (o : Word) (i : Nat) (hi : i < 64) :
    (errorCode c b o).getLsbD i =
      if i = (if c.tbi then 54 else 62) then b
      else if i = (if c.tbi then 53 else 61) then !b
      else o.getLsbD i := by
  unfold errorCode
  rw [getLsbD_setBit _ _ _ _ hi, getLsbD_setBit _ _ _ _ hi]
  cases hc : c.tbi <;> simp [PacContext.top, hc] <;> split <;> simp_all

/-- An operation that does not insert selects with bit 55 (R102). -/
theorem selectBit_false (s : State) (p : Word) (isInstr : Bool) :
    s.selectBit p isInstr false = p.getLsbD 55 := by simp [State.selectBit]

theorem bottom_false (s : State) (p : Word) (isInstr : Bool) :
    (s.pacContext p isInstr false).bottom = s.bottomBit (s.rangeOf p) := by
  simp only [State.pacContext, State.rangeOf, selectBit_false]

/-- The context of an operation that does not insert depends on the pointer through bit 55 only. -/
theorem pacContext_congr {s : State} {v w : Word} {isInstr : Bool} (h : v.getLsbD 55 = w.getLsbD 55) :
    s.pacContext v isInstr false = s.pacContext w isInstr false := by
  simp only [State.pacContext, selectBit_false, State.rangeOf, h]

/-- Up to bottom_PAC_bit 52 the extension bit is the selection bit. -/
theorem sel_of_le {s : State} {p : Word} {isInstr ins : Bool} (h : (s.pacContext p isInstr ins).bottom ≤ 52) :
    (s.pacContext p isInstr ins).sel = s.selectBit p isInstr ins := by
  simp only [State.pacContext] at h ⊢
  rw [if_neg]
  simp only [Bool.and_eq_true, decide_eq_true_eq, not_and]
  omega

/-- Up to bottom_PAC_bit 55 the positions of the extension bits are the field and bit 55. -/
theorem getLsbD_ext {s : State} {p : Word} {isInstr ins : Bool} (h : (s.pacContext p isInstr ins).bottom ≤ 55)
    (i : Nat) (hi : i < 64) :
    (s.pacContext p isInstr ins).ext.getLsbD i =
      ((s.pacContext p isInstr ins).field.getLsbD i || decide (i = 55)) := by
  have he : (s.pacContext p isInstr ins).ext =
      if (s.pacContext p isInstr ins).bottom ≤ 55 then (s.pacContext p isInstr ins).field ||| 1#64 <<< 55
      else (s.pacContext p isInstr ins).field := rfl
  rw [he, if_pos h, BitVec.getLsbD_or, getLsbD_oneShift _ _ hi]

/-- Where the PAC field can be: not below bottom_PAC_bit, up to bit 55 with address tagging, and with bit 55 in it only in
a regime with a single VA range. -/
theorem field_within {s : State} {p : Word} {isInstr ins : Bool} {i : Nat} (hi : i < 64)
    (h : (s.pacContext p isInstr ins).field.getLsbD i = true) :
    (s.pacContext p isInstr ins).bottom ≤ i ∧ ((s.pacContext p isInstr ins).tbi = true → i ≤ 55) ∧
      (s.singleRange = false → i ≠ 55) ∧
      ((s.pacContext p isInstr ins).tbi = false → s.latUsed (s.rangeOf p) = true → 60 ≤ i ∨ i ≤ 55) := by
  have hf : (s.pacContext p isInstr ins).field =
      pacFieldMask (s.pacContext p isInstr ins).bottom (s.pacContext p isInstr ins).tbi (s.latUsed (s.rangeOf p))
        s.singleRange &&& sliceMask 63 (s.pacContext p isInstr ins).bottom := rfl
  rw [hf, BitVec.getLsbD_and, getLsbD_sliceMask _ _ _ (by decide)] at h
  generalize (s.pacContext p isInstr ins).bottom = b at *
  generalize (s.pacContext p isInstr ins).tbi = tbi at *
  generalize s.latUsed (s.rangeOf p) = lat at *
  generalize s.singleRange = single at *
  simp only [pacFieldMask] at h
  have h1 := getLsbD_sliceMask 54 b i (by decide)
  have h2 := getLsbD_sliceMask 55 b i (by decide)
  have h3 := getLsbD_sliceMask 63 60 i (by decide)
  have h4 := getLsbD_sliceMask 63 56 i (by decide)
  have h5 := getLsbD_sliceMask 63 b i (by decide)
  cases tbi <;> cases lat <;> cases single <;> by_cases hb : 52 < b <;>
    simp [hb, h1, h2, h3, h4, h5, -BitVec.getLsbD_eq_getElem] at h ⊢ <;> omega

/-- The positions of the extension bits are not below bottom_PAC_bit and, with address tagging, not in the tag. -/
theorem ext_within {s : State} {p : Word} {isInstr ins : Bool} {i : Nat} (hi : i < 64)
    (h : (s.pacContext p isInstr ins).ext.getLsbD i = true) :
    (s.pacContext p isInstr ins).bottom ≤ i ∧ ((s.pacContext p isInstr ins).tbi = true → i ≤ 55) := by
  have he : (s.pacContext p isInstr ins).ext =
      if (s.pacContext p isInstr ins).bottom ≤ 55 then (s.pacContext p isInstr ins).field ||| 1#64 <<< 55
      else (s.pacContext p isInstr ins).field := rfl
  rw [he] at h
  split at h
  · next hb =>
    rw [BitVec.getLsbD_or, getLsbD_oneShift _ _ hi, Bool.or_eq_true, decide_eq_true_eq] at h
    rcases h with h | h
    · exact ⟨(field_within hi h).1, (field_within hi h).2.1⟩
    · exact ⟨by omega, fun _ => by omega⟩
  · exact ⟨(field_within hi h).1, (field_within hi h).2.1⟩

/-- Up to bottom_PAC_bit 52 the field is that of PACFieldMask. -/
theorem field_of_le {s : State} {p : Word} {isInstr ins : Bool} (h : (s.pacContext p isInstr ins).bottom ≤ 52) :
    (s.pacContext p isInstr ins).field =
      pacFieldMask (s.pacContext p isInstr ins).bottom (s.pacContext p isInstr ins).tbi (s.latUsed (s.rangeOf p))
        s.singleRange := by
  have hf : (s.pacContext p isInstr ins).field =
      pacFieldMask (s.pacContext p isInstr ins).bottom (s.pacContext p isInstr ins).tbi (s.latUsed (s.rangeOf p))
        s.singleRange &&& sliceMask 63 (s.pacContext p isInstr ins).bottom := rfl
  rw [hf, and_eq_mask_iff_sub]
  intro i hi hm
  rw [getLsbD_sliceMask _ _ _ (by decide)]
  generalize (s.pacContext p isInstr ins).bottom = b at *
  generalize (s.pacContext p isInstr ins).tbi = tbi at *
  generalize s.latUsed (s.rangeOf p) = lat at *
  simp only [pacFieldMask] at hm
  have h1 := getLsbD_sliceMask 54 b i (by decide)
  have h3 := getLsbD_sliceMask 63 60 i (by decide)
  have h4 := getLsbD_sliceMask 63 56 i (by decide)
  have hb : ¬ 52 < b := by omega
  cases tbi <;> cases lat <;> simp [hb, h1, h3, h4, -BitVec.getLsbD_eq_getElem] at hm ⊢ <;> omega

/-- The bits of an address that the canonical test looks at. -/
theorem getLsbD_checkedBits (s : State) (a : Word) (isInstr : Bool) (i : Nat) (hi : i < 64) :
    (s.checkedBits a isInstr).getLsbD i =
      if s.tagUsed (s.rangeOf a) isInstr then decide (s.bottomBit (s.rangeOf a) ≤ i ∧ i ≤ 55)
      else if s.latUsed (s.rangeOf a) then
        decide (60 ≤ i) || decide (s.bottomBit (s.rangeOf a) ≤ i ∧ i ≤ 55)
      else decide (s.bottomBit (s.rangeOf a) ≤ i) := by
  have h1 := getLsbD_sliceMask 55 (s.bottomBit (s.rangeOf a)) i (by decide)
  have h2 := getLsbD_sliceMask 63 60 i (by decide)
  have h3 := getLsbD_sliceMask 63 (s.bottomBit (s.rangeOf a)) i (by decide)
  have h63 : i ≤ 63 := by omega
  simp only [State.checkedBits]
  split
  · exact h1
  · split
    · rw [BitVec.getLsbD_or, h1, h2]; simp [h63]
    · rw [h3]; simp [h63]

/-- The canonical test looks at every bit of the PAC field. -/
theorem field_checked {s : State} {p : Word} {isInstr : Bool} {i : Nat} (hi : i < 64)
    (h : (s.pacContext p isInstr false).field.getLsbD i = true) : (s.checkedBits p isInstr).getLsbD i = true := by
  obtain ⟨h1, h2, _, h4⟩ := field_within hi h
  rw [bottom_false] at h1
  rw [getLsbD_checkedBits _ _ _ _ hi]
  have ht : (s.pacContext p isInstr false).tbi = s.tagUsed (s.rangeOf p) isInstr := rfl
  rw [ht] at h2 h4
  cases hu : s.tagUsed (s.rangeOf p) isInstr
  · cases hl : s.latUsed (s.rangeOf p)
    · simpa using h1
    · have := h4 hu hl
      simp; omega
  · have := h2 hu
    simp; omega

/-- The open failure value differs from the pointer in the PAC field only. -/
theorem getLsbD_openFailure (s : State) (p : Word) (isInstr : Bool) (i : Nat) (hi : i < 64)
    (h : (s.pacContext p isInstr false).field.getLsbD i = false) :
    (s.openFailure p isInstr).getLsbD i = p.getLsbD i := by
  simp only [State.openFailure]
  split <;> simp [h, BitVec.getLsbD_xor, BitVec.getLsbD_or, BitVec.getLsbD_and, BitVec.getLsbD_not, hi,
    -BitVec.getLsbD_eq_getElem]

/-- A canonical address has equal checked bits, and zero ones in a regime with a single VA range. -/
theorem isCanonical_bits {s : State} {a : Word} {isInstr : Bool} (h : s.isCanonical a isInstr = true) {i : Nat}
    (hi : i < 64) (hc : (s.checkedBits a isInstr).getLsbD i = true) :
    a.getLsbD i = a.getLsbD 55 ∧ (s.singleRange = true → a.getLsbD i = false) := by
  simp only [State.isCanonical, Bool.and_eq_true, Bool.or_eq_true, decide_eq_true_eq, Bool.not_eq_true'] at h
  obtain ⟨h1, h2⟩ := h
  rw [and_eq_and_iff] at h1
  refine ⟨by rw [h1 i hi hc, getLsbD_replicateBit]; simp [hi], fun hs => ?_⟩
  rcases h2 with h2 | h2
  · rw [hs] at h2; cases h2
  · exact (and_eq_zero_iff _ _).1 h2 i hi hc

/-- What the canonical test looks at depends on the address through its range only. -/
theorem checkedBits_congr {s : State} {v w : Word} {isInstr : Bool} (h : s.rangeOf v = s.rangeOf w) :
    s.checkedBits v isInstr = s.checkedBits w isInstr := by
  simp only [State.checkedBits, h]

/-- The open failure value is not canonical, where there is a PAC field to fail in. -/
theorem openFailure_nonCanonical (s : State) (p : Word) (isInstr : Bool)
    (hne : (s.pacContext p isInstr false).field ≠ 0#64) : s.isCanonical (s.openFailure p isInstr) isInstr = false := by
  obtain ⟨i, hi, hf⟩ : ∃ i, i < 64 ∧ (s.pacContext p isInstr false).field.getLsbD i = true := by
    by_contra hn
    refine hne (eq_of_bits fun i hi => ?_)
    rw [BitVec.getLsbD_zero]
    by_contra hc
    exact hn ⟨i, hi, by simpa using hc⟩
  have hrange : ∀ v : Word, (s.singleRange = false → v.getLsbD 55 = p.getLsbD 55) → s.rangeOf v = s.rangeOf p := by
    intro v hv
    simp only [State.rangeOf]
    cases hs : s.singleRange
    · rw [hv hs]
    · rfl
  have hopen := hrange (s.openFailure p isInstr) (fun hs => getLsbD_openFailure _ _ _ _ (by decide) (by
    by_contra hc
    exact (field_within (by decide) (by simpa using hc)).2.2.1 hs rfl))
  have hchecked := field_checked hi hf
  have h55 : s.singleRange = false → (s.pacContext p isInstr false).field.getLsbD 55 = false := by
    intro hs
    by_contra hc
    exact (field_within (by decide) (by simpa using hc)).2.2.1 hs rfl
  by_contra hcan
  replace hcan : s.isCanonical (s.openFailure p isInstr) isInstr = true := by simpa using hcan
  have hbits := isCanonical_bits hcan hi (by rw [checkedBits_congr hopen]; exact hchecked)
  simp only [State.openFailure] at hcan hbits hopen
  split at hcan
  · next hv =>
    rw [if_pos hv] at hbits hopen
    have hvr : s.rangeOf ((p &&& ~~~(s.pacContext p isInstr false).field) |||
        (Config.freeFailure s.freeIdx &&& (s.pacContext p isInstr false).field)) = s.rangeOf p := hrange _ (fun hs => by
      simp [BitVec.getLsbD_or, BitVec.getLsbD_and, BitVec.getLsbD_not, h55 hs, -BitVec.getLsbD_eq_getElem])
    have hvb := isCanonical_bits hv hi (by rw [checkedBits_congr hvr]; exact hchecked)
    generalize (p &&& ~~~(s.pacContext p isInstr false).field) |||
      (Config.freeFailure s.freeIdx &&& (s.pacContext p isInstr false).field) = v at *
    rw [BitVec.getLsbD_xor, BitVec.getLsbD_xor, hf] at hbits
    cases hs : s.singleRange
    · rw [h55 hs, hvb.1] at hbits
      have := hbits.1
      simp at this
    · have h1 := hvb.2 hs
      have h2 := hbits.2 hs
      rw [h1] at h2
      simp at h2
  · next hv => exact hv hcan

/-- What pointer authentication reads of a state is what SamePointerAuth keeps. -/
theorem SamePointerAuth.reads {s t : State} (h : SamePointerAuth s t) :
    t.singleRange = s.singleRange ∧ t.trapPAC = s.trapPAC ∧ (∀ k, t.enabled k = s.enabled k) ∧
      (∀ n b, t.tagUsed n b = s.tagUsed n b) ∧ (∀ n, t.latUsed n = s.latUsed n) ∧
      ∀ n, t.bottomBit n = s.bottomBit n := by
  obtain ⟨h1, h2, _, h4, h5, h6, h7⟩ := h
  have c : t.ctl = s.ctl := by simp only [State.ctl, State.ctlEL, State.hostMode, h1, h2, h6]; rfl
  have sr : t.singleRange = s.singleRange := by simp only [State.singleRange, c, State.e2h, h1, h6]
  have tn : t.tcrNow = s.tcrNow := by simp only [State.tcrNow, c, h5]
  refine ⟨sr, ?_, ?_, ?_, ?_, ?_⟩
  · simp only [State.trapPAC, State.hostMode, h1, h2, h6, h7]; rfl
  · intro k; simp only [State.enabled, h4, c]
  · intro n b; simp only [State.tagUsed, sr, tn]
  · intro n; simp only [State.latUsed, h1]
  · intro n; simp only [State.bottomBit, State.effTnSZ, tn, h1]

end Sys2Proof.Machine
end

