-- ==== Sys2Proof/Laws/PerInstr.lean ====
section
/-! SUPPORT. Statements about every instruction, one lemma per constructor: the word that encode writes matches
its own row of the encoding table, and that row builds the instruction back from it. -/

namespace Sys2Proof.Laws.EncodesItsRow

open Sys2Proof

/-- The encoded word matches a row of the table that reads the instruction back (30_encoding.md R88). -/
def Statement (i : Instr) : Prop :=
  i.wellFormed = true →
    ∃ r ∈ encodingRows, r.matches (encode i) = true ∧ r.build (encode i) = i

/-- The shape every lemma below has: the row at position `n` of the table. -/
theorem of_row {i : Instr} (n : Nat) (hn : n < encodingRows.length)
    (hm : encode i &&& (encodingRows[n]).mask = (encodingRows[n]).pattern)
    (hb : i.wellFormed = true → (encodingRows[n]).build (encode i) = i) : Statement i := fun hw =>
  ⟨encodingRows[n], List.getElem_mem hn, by simp [EncodingRow.matches, hm], hb hw⟩

theorem pacia (rd rn : RegNum) : Statement (.pacia rd rn) := by
  refine of_row 0 (by decide) ?_ (fun hw => ?_)
  · change (0xdac10000#32 ||| placeLow rd ||| placeMid rn) &&& 0xfffffc00#32 = 0xdac10000#32
    simp only [or_and, placeLow_and (m := 0xfffffc00#32) rd (by decide),
      placeMid_and (m := 0xfffffc00#32) rn (by decide)]; decide
  · change Instr.pacia (fieldLow _) (fieldMid _) = _
    simp [encode, show fieldLow 0xdac10000#32 = 0#5 from by decide,
      show fieldMid 0xdac10000#32 = 0#5 from by decide]

theorem pacib (rd rn : RegNum) : Statement (.pacib rd rn) := by
  refine of_row 1 (by decide) ?_ (fun hw => ?_)
  · change (0xdac10400#32 ||| placeLow rd ||| placeMid rn) &&& 0xfffffc00#32 = 0xdac10400#32
    simp only [or_and, placeLow_and (m := 0xfffffc00#32) rd (by decide),
      placeMid_and (m := 0xfffffc00#32) rn (by decide)]; decide
  · change Instr.pacib (fieldLow _) (fieldMid _) = _
    simp [encode, show fieldLow 0xdac10400#32 = 0#5 from by decide,
      show fieldMid 0xdac10400#32 = 0#5 from by decide]

theorem pacda (rd rn : RegNum) : Statement (.pacda rd rn) := by
  refine of_row 2 (by decide) ?_ (fun hw => ?_)
  · change (0xdac10800#32 ||| placeLow rd ||| placeMid rn) &&& 0xfffffc00#32 = 0xdac10800#32
    simp only [or_and, placeLow_and (m := 0xfffffc00#32) rd (by decide),
      placeMid_and (m := 0xfffffc00#32) rn (by decide)]; decide
  · change Instr.pacda (fieldLow _) (fieldMid _) = _
    simp [encode, show fieldLow 0xdac10800#32 = 0#5 from by decide,
      show fieldMid 0xdac10800#32 = 0#5 from by decide]

theorem pacdb (rd rn : RegNum) : Statement (.pacdb rd rn) := by
  refine of_row 3 (by decide) ?_ (fun hw => ?_)
  · change (0xdac10c00#32 ||| placeLow rd ||| placeMid rn) &&& 0xfffffc00#32 = 0xdac10c00#32
    simp only [or_and, placeLow_and (m := 0xfffffc00#32) rd (by decide),
      placeMid_and (m := 0xfffffc00#32) rn (by decide)]; decide
  · change Instr.pacdb (fieldLow _) (fieldMid _) = _
    simp [encode, show fieldLow 0xdac10c00#32 = 0#5 from by decide,
      show fieldMid 0xdac10c00#32 = 0#5 from by decide]

theorem paciza (rd : RegNum) : Statement (.paciza rd) := by
  refine of_row 4 (by decide) ?_ (fun hw => ?_)
  · change (0xdac123e0#32 ||| placeLow rd) &&& 0xffffffe0#32 = 0xdac123e0#32
    simp only [or_and, placeLow_and (m := 0xffffffe0#32) rd (by decide)]; decide
  · change Instr.paciza (fieldLow _) = _
    simp [encode, show fieldLow 0xdac123e0#32 = 0#5 from by decide]

theorem pacizb (rd : RegNum) : Statement (.pacizb rd) := by
  refine of_row 5 (by decide) ?_ (fun hw => ?_)
  · change (0xdac127e0#32 ||| placeLow rd) &&& 0xffffffe0#32 = 0xdac127e0#32
    simp only [or_and, placeLow_and (m := 0xffffffe0#32) rd (by decide)]; decide
  · change Instr.pacizb (fieldLow _) = _
    simp [encode, show fieldLow 0xdac127e0#32 = 0#5 from by decide]

theorem pacdza (rd : RegNum) : Statement (.pacdza rd) := by
  refine of_row 6 (by decide) ?_ (fun hw => ?_)
  · change (0xdac12be0#32 ||| placeLow rd) &&& 0xffffffe0#32 = 0xdac12be0#32
    simp only [or_and, placeLow_and (m := 0xffffffe0#32) rd (by decide)]; decide
  · change Instr.pacdza (fieldLow _) = _
    simp [encode, show fieldLow 0xdac12be0#32 = 0#5 from by decide]

theorem pacdzb (rd : RegNum) : Statement (.pacdzb rd) := by
  refine of_row 7 (by decide) ?_ (fun hw => ?_)
  · change (0xdac12fe0#32 ||| placeLow rd) &&& 0xffffffe0#32 = 0xdac12fe0#32
    simp only [or_and, placeLow_and (m := 0xffffffe0#32) rd (by decide)]; decide
  · change Instr.pacdzb (fieldLow _) = _
    simp [encode, show fieldLow 0xdac12fe0#32 = 0#5 from by decide]

theorem pacia1716 : Statement .pacia1716 :=
  of_row 8 (by decide) (by decide) (fun _ => rfl)

theorem pacib1716 : Statement .pacib1716 :=
  of_row 9 (by decide) (by decide) (fun _ => rfl)

theorem paciaz : Statement .paciaz :=
  of_row 10 (by decide) (by decide) (fun _ => rfl)

theorem paciasp : Statement .paciasp :=
  of_row 11 (by decide) (by decide) (fun _ => rfl)

theorem pacibz : Statement .pacibz :=
  of_row 12 (by decide) (by decide) (fun _ => rfl)

theorem pacibsp : Statement .pacibsp :=
  of_row 13 (by decide) (by decide) (fun _ => rfl)

theorem paciasppc : Statement .paciasppc :=
  of_row 14 (by decide) (by decide) (fun _ => rfl)

theorem autia (rd rn : RegNum) : Statement (.autia rd rn) := by
  refine of_row 15 (by decide) ?_ (fun hw => ?_)
  · change (0xdac11000#32 ||| placeLow rd ||| placeMid rn) &&& 0xfffffc00#32 = 0xdac11000#32
    simp only [or_and, placeLow_and (m := 0xfffffc00#32) rd (by decide),
      placeMid_and (m := 0xfffffc00#32) rn (by decide)]; decide
  · change Instr.autia (fieldLow _) (fieldMid _) = _
    simp [encode, show fieldLow 0xdac11000#32 = 0#5 from by decide,
      show fieldMid 0xdac11000#32 = 0#5 from by decide]

theorem autib (rd rn : RegNum) : Statement (.autib rd rn) := by
  refine of_row 16 (by decide) ?_ (fun hw => ?_)
  · change (0xdac11400#32 ||| placeLow rd ||| placeMid rn) &&& 0xfffffc00#32 = 0xdac11400#32
    simp only [or_and, placeLow_and (m := 0xfffffc00#32) rd (by decide),
      placeMid_and (m := 0xfffffc00#32) rn (by decide)]; decide
  · change Instr.autib (fieldLow _) (fieldMid _) = _
    simp [encode, show fieldLow 0xdac11400#32 = 0#5 from by decide,
      show fieldMid 0xdac11400#32 = 0#5 from by decide]

theorem autda (rd rn : RegNum) : Statement (.autda rd rn) := by
  refine of_row 17 (by decide) ?_ (fun hw => ?_)
  · change (0xdac11800#32 ||| placeLow rd ||| placeMid rn) &&& 0xfffffc00#32 = 0xdac11800#32
    simp only [or_and, placeLow_and (m := 0xfffffc00#32) rd (by decide),
      placeMid_and (m := 0xfffffc00#32) rn (by decide)]; decide
  · change Instr.autda (fieldLow _) (fieldMid _) = _
    simp [encode, show fieldLow 0xdac11800#32 = 0#5 from by decide,
      show fieldMid 0xdac11800#32 = 0#5 from by decide]

theorem autdb (rd rn : RegNum) : Statement (.autdb rd rn) := by
  refine of_row 18 (by decide) ?_ (fun hw => ?_)
  · change (0xdac11c00#32 ||| placeLow rd ||| placeMid rn) &&& 0xfffffc00#32 = 0xdac11c00#32
    simp only [or_and, placeLow_and (m := 0xfffffc00#32) rd (by decide),
      placeMid_and (m := 0xfffffc00#32) rn (by decide)]; decide
  · change Instr.autdb (fieldLow _) (fieldMid _) = _
    simp [encode, show fieldLow 0xdac11c00#32 = 0#5 from by decide,
      show fieldMid 0xdac11c00#32 = 0#5 from by decide]

theorem autiza (rd : RegNum) : Statement (.autiza rd) := by
  refine of_row 19 (by decide) ?_ (fun hw => ?_)
  · change (0xdac133e0#32 ||| placeLow rd) &&& 0xffffffe0#32 = 0xdac133e0#32
    simp only [or_and, placeLow_and (m := 0xffffffe0#32) rd (by decide)]; decide
  · change Instr.autiza (fieldLow _) = _
    simp [encode, show fieldLow 0xdac133e0#32 = 0#5 from by decide]

theorem autizb (rd : RegNum) : Statement (.autizb rd) := by
  refine of_row 20 (by decide) ?_ (fun hw => ?_)
  · change (0xdac137e0#32 ||| placeLow rd) &&& 0xffffffe0#32 = 0xdac137e0#32
    simp only [or_and, placeLow_and (m := 0xffffffe0#32) rd (by decide)]; decide
  · change Instr.autizb (fieldLow _) = _
    simp [encode, show fieldLow 0xdac137e0#32 = 0#5 from by decide]

theorem autdza (rd : RegNum) : Statement (.autdza rd) := by
  refine of_row 21 (by decide) ?_ (fun hw => ?_)
  · change (0xdac13be0#32 ||| placeLow rd) &&& 0xffffffe0#32 = 0xdac13be0#32
    simp only [or_and, placeLow_and (m := 0xffffffe0#32) rd (by decide)]; decide
  · change Instr.autdza (fieldLow _) = _
    simp [encode, show fieldLow 0xdac13be0#32 = 0#5 from by decide]

theorem autdzb (rd : RegNum) : Statement (.autdzb rd) := by
  refine of_row 22 (by decide) ?_ (fun hw => ?_)
  · change (0xdac13fe0#32 ||| placeLow rd) &&& 0xffffffe0#32 = 0xdac13fe0#32
    simp only [or_and, placeLow_and (m := 0xffffffe0#32) rd (by decide)]; decide
  · change Instr.autdzb (fieldLow _) = _
    simp [encode, show fieldLow 0xdac13fe0#32 = 0#5 from by decide]

theorem autia1716 : Statement .autia1716 :=
  of_row 23 (by decide) (by decide) (fun _ => rfl)

theorem autib1716 : Statement .autib1716 :=
  of_row 24 (by decide) (by decide) (fun _ => rfl)

theorem autiaz : Statement .autiaz :=
  of_row 25 (by decide) (by decide) (fun _ => rfl)

theorem autiasp : Statement .autiasp :=
  of_row 26 (by decide) (by decide) (fun _ => rfl)

theorem autibz : Statement .autibz :=
  of_row 27 (by decide) (by decide) (fun _ => rfl)

theorem autibsp : Statement .autibsp :=
  of_row 28 (by decide) (by decide) (fun _ => rfl)

theorem xpaci (rd : RegNum) : Statement (.xpaci rd) := by
  refine of_row 29 (by decide) ?_ (fun hw => ?_)
  · change (0xdac143e0#32 ||| placeLow rd) &&& 0xffffffe0#32 = 0xdac143e0#32
    simp only [or_and, placeLow_and (m := 0xffffffe0#32) rd (by decide)]; decide
  · change Instr.xpaci (fieldLow _) = _
    simp [encode, show fieldLow 0xdac143e0#32 = 0#5 from by decide]

theorem xpacd (rd : RegNum) : Statement (.xpacd rd) := by
  refine of_row 30 (by decide) ?_ (fun hw => ?_)
  · change (0xdac147e0#32 ||| placeLow rd) &&& 0xffffffe0#32 = 0xdac147e0#32
    simp only [or_and, placeLow_and (m := 0xffffffe0#32) rd (by decide)]; decide
  · change Instr.xpacd (fieldLow _) = _
    simp [encode, show fieldLow 0xdac147e0#32 = 0#5 from by decide]

theorem xpaclri : Statement .xpaclri :=
  of_row 31 (by decide) (by decide) (fun _ => rfl)

theorem pacga (rd rn rm : RegNum) : Statement (.pacga rd rn rm) := by
  refine of_row 32 (by decide) ?_ (fun hw => ?_)
  · change (0x9ac03000#32 ||| placeLow rd ||| placeMid rn ||| placeHigh rm) &&& 0xffe0fc00#32 = 0x9ac03000#32
    simp only [or_and, placeLow_and (m := 0xffe0fc00#32) rd (by decide),
      placeMid_and (m := 0xffe0fc00#32) rn (by decide),
      placeHigh_and (m := 0xffe0fc00#32) rm (by decide)]; decide
  · change Instr.pacga (fieldLow _) (fieldMid _) (fieldHigh _) = _
    simp [encode, show fieldLow 0x9ac03000#32 = 0#5 from by decide,
      show fieldMid 0x9ac03000#32 = 0#5 from by decide, show fieldHigh 0x9ac03000#32 = 0#5 from by decide]

theorem braa (rn rm : RegNum) : Statement (.braa rn rm) := by
  refine of_row 33 (by decide) ?_ (fun hw => ?_)
  · change (0xd71f0800#32 ||| placeMid rn ||| placeLow rm) &&& 0xfffffc00#32 = 0xd71f0800#32
    simp only [or_and, placeMid_and (m := 0xfffffc00#32) rn (by decide),
      placeLow_and (m := 0xfffffc00#32) rm (by decide)]; decide
  · change Instr.braa (fieldMid _) (fieldLow _) = _
    simp [encode, show fieldMid 0xd71f0800#32 = 0#5 from by decide,
      show fieldLow 0xd71f0800#32 = 0#5 from by decide]

theorem brab (rn rm : RegNum) : Statement (.brab rn rm) := by
  refine of_row 34 (by decide) ?_ (fun hw => ?_)
  · change (0xd71f0c00#32 ||| placeMid rn ||| placeLow rm) &&& 0xfffffc00#32 = 0xd71f0c00#32
    simp only [or_and, placeMid_and (m := 0xfffffc00#32) rn (by decide),
      placeLow_and (m := 0xfffffc00#32) rm (by decide)]; decide
  · change Instr.brab (fieldMid _) (fieldLow _) = _
    simp [encode, show fieldMid 0xd71f0c00#32 = 0#5 from by decide,
      show fieldLow 0xd71f0c00#32 = 0#5 from by decide]

theorem braaz (rn : RegNum) : Statement (.braaz rn) := by
  refine of_row 35 (by decide) ?_ (fun hw => ?_)
  · change (0xd61f081f#32 ||| placeMid rn) &&& 0xfffffc1f#32 = 0xd61f081f#32
    simp only [or_and, placeMid_and (m := 0xfffffc1f#32) rn (by decide)]; decide
  · change Instr.braaz (fieldMid _) = _
    simp [encode, show fieldMid 0xd61f081f#32 = 0#5 from by decide]

theorem brabz (rn : RegNum) : Statement (.brabz rn) := by
  refine of_row 36 (by decide) ?_ (fun hw => ?_)
  · change (0xd61f0c1f#32 ||| placeMid rn) &&& 0xfffffc1f#32 = 0xd61f0c1f#32
    simp only [or_and, placeMid_and (m := 0xfffffc1f#32) rn (by decide)]; decide
  · change Instr.brabz (fieldMid _) = _
    simp [encode, show fieldMid 0xd61f0c1f#32 = 0#5 from by decide]

theorem blraa (rn rm : RegNum) : Statement (.blraa rn rm) := by
  refine of_row 37 (by decide) ?_ (fun hw => ?_)
  · change (0xd73f0800#32 ||| placeMid rn ||| placeLow rm) &&& 0xfffffc00#32 = 0xd73f0800#32
    simp only [or_and, placeMid_and (m := 0xfffffc00#32) rn (by decide),
      placeLow_and (m := 0xfffffc00#32) rm (by decide)]; decide
  · change Instr.blraa (fieldMid _) (fieldLow _) = _
    simp [encode, show fieldMid 0xd73f0800#32 = 0#5 from by decide,
      show fieldLow 0xd73f0800#32 = 0#5 from by decide]

theorem blrab (rn rm : RegNum) : Statement (.blrab rn rm) := by
  refine of_row 38 (by decide) ?_ (fun hw => ?_)
  · change (0xd73f0c00#32 ||| placeMid rn ||| placeLow rm) &&& 0xfffffc00#32 = 0xd73f0c00#32
    simp only [or_and, placeMid_and (m := 0xfffffc00#32) rn (by decide),
      placeLow_and (m := 0xfffffc00#32) rm (by decide)]; decide
  · change Instr.blrab (fieldMid _) (fieldLow _) = _
    simp [encode, show fieldMid 0xd73f0c00#32 = 0#5 from by decide,
      show fieldLow 0xd73f0c00#32 = 0#5 from by decide]

theorem blraaz (rn : RegNum) : Statement (.blraaz rn) := by
  refine of_row 39 (by decide) ?_ (fun hw => ?_)
  · change (0xd63f081f#32 ||| placeMid rn) &&& 0xfffffc1f#32 = 0xd63f081f#32
    simp only [or_and, placeMid_and (m := 0xfffffc1f#32) rn (by decide)]; decide
  · change Instr.blraaz (fieldMid _) = _
    simp [encode, show fieldMid 0xd63f081f#32 = 0#5 from by decide]

theorem blrabz (rn : RegNum) : Statement (.blrabz rn) := by
  refine of_row 40 (by decide) ?_ (fun hw => ?_)
  · change (0xd63f0c1f#32 ||| placeMid rn) &&& 0xfffffc1f#32 = 0xd63f0c1f#32
    simp only [or_and, placeMid_and (m := 0xfffffc1f#32) rn (by decide)]; decide
  · change Instr.blrabz (fieldMid _) = _
    simp [encode, show fieldMid 0xd63f0c1f#32 = 0#5 from by decide]

theorem retaa : Statement .retaa :=
  of_row 41 (by decide) (by decide) (fun _ => rfl)

theorem retab : Statement .retab :=
  of_row 42 (by decide) (by decide) (fun _ => rfl)

theorem ret (rn : RegNum) : Statement (.ret rn) := by
  refine of_row 43 (by decide) ?_ (fun hw => ?_)
  · change (0xd65f0000#32 ||| placeMid rn) &&& 0xfffffc1f#32 = 0xd65f0000#32
    simp only [or_and, placeMid_and (m := 0xfffffc1f#32) rn (by decide)]; decide
  · change Instr.ret (fieldMid _) = _
    simp [encode, show fieldMid 0xd65f0000#32 = 0#5 from by decide]

theorem eretaa : Statement .eretaa :=
  of_row 44 (by decide) (by decide) (fun _ => rfl)

theorem eretab : Statement .eretab :=
  of_row 45 (by decide) (by decide) (fun _ => rfl)

theorem ldraaOffset (rt rn : RegNum) (offset : Int) : Statement (.ldraaOffset rt rn offset) := by
  refine of_row 46 (by decide) ?_ (fun hw => ?_)
  · change (0xf8200400#32 ||| placeLow rt ||| placeMid rn ||| placeOffset offset) &&& 0xffa00c00#32 = 0xf8200400#32
    simp only [or_and, placeLow_and (m := 0xffa00c00#32) rt (by decide),
      placeMid_and (m := 0xffa00c00#32) rn (by decide),
      placeOffset_and (m := 0xffa00c00#32) offset (by decide)]; decide
  · change Instr.ldraaOffset (fieldLow _) (fieldMid _) (fieldOffset _) = _
    simp [encode, fieldOffset_word (show 0xf8200400#32 &&& 0x5ff000#32 = 0#32 from by decide) hw,
      show fieldLow 0xf8200400#32 = 0#5 from by decide, show fieldMid 0xf8200400#32 = 0#5 from by decide]

theorem ldraaPre (rt rn : RegNum) (offset : Int) : Statement (.ldraaPre rt rn offset) := by
  refine of_row 47 (by decide) ?_ (fun hw => ?_)
  · change (0xf8200c00#32 ||| placeLow rt ||| placeMid rn ||| placeOffset offset) &&& 0xffa00c00#32 = 0xf8200c00#32
    simp only [or_and, placeLow_and (m := 0xffa00c00#32) rt (by decide),
      placeMid_and (m := 0xffa00c00#32) rn (by decide),
      placeOffset_and (m := 0xffa00c00#32) offset (by decide)]; decide
  · change Instr.ldraaPre (fieldLow _) (fieldMid _) (fieldOffset _) = _
    simp [encode, fieldOffset_word (show 0xf8200c00#32 &&& 0x5ff000#32 = 0#32 from by decide) hw,
      show fieldLow 0xf8200c00#32 = 0#5 from by decide, show fieldMid 0xf8200c00#32 = 0#5 from by decide]

theorem ldrabOffset (rt rn : RegNum) (offset : Int) : Statement (.ldrabOffset rt rn offset) := by
  refine of_row 48 (by decide) ?_ (fun hw => ?_)
  · change (0xf8a00400#32 ||| placeLow rt ||| placeMid rn ||| placeOffset offset) &&& 0xffa00c00#32 = 0xf8a00400#32
    simp only [or_and, placeLow_and (m := 0xffa00c00#32) rt (by decide),
      placeMid_and (m := 0xffa00c00#32) rn (by decide),
      placeOffset_and (m := 0xffa00c00#32) offset (by decide)]; decide
  · change Instr.ldrabOffset (fieldLow _) (fieldMid _) (fieldOffset _) = _
    simp [encode, fieldOffset_word (show 0xf8a00400#32 &&& 0x5ff000#32 = 0#32 from by decide) hw,
      show fieldLow 0xf8a00400#32 = 0#5 from by decide, show fieldMid 0xf8a00400#32 = 0#5 from by decide]

theorem ldrabPre (rt rn : RegNum) (offset : Int) : Statement (.ldrabPre rt rn offset) := by
  refine of_row 49 (by decide) ?_ (fun hw => ?_)
  · change (0xf8a00c00#32 ||| placeLow rt ||| placeMid rn ||| placeOffset offset) &&& 0xffa00c00#32 = 0xf8a00c00#32
    simp only [or_and, placeLow_and (m := 0xffa00c00#32) rt (by decide),
      placeMid_and (m := 0xffa00c00#32) rn (by decide),
      placeOffset_and (m := 0xffa00c00#32) offset (by decide)]; decide
  · change Instr.ldrabPre (fieldLow _) (fieldMid _) (fieldOffset _) = _
    simp [encode, fieldOffset_word (show 0xf8a00c00#32 &&& 0x5ff000#32 = 0#32 from by decide) hw,
      show fieldLow 0xf8a00c00#32 = 0#5 from by decide, show fieldMid 0xf8a00c00#32 = 0#5 from by decide]

theorem pacm : Statement .pacm :=
  of_row 50 (by decide) (by decide) (fun _ => rfl)

theorem nop : Statement .nop :=
  of_row 51 (by decide) (by decide) (fun _ => rfl)

end Sys2Proof.Laws.EncodesItsRow
end

