-- ==== Sys2Proof/Laws/Shapes.lean ====
section
/-! SUPPORT. Each class of Safety.lean runs one shared operation, and the ends of an instruction meet the frames
of Safety.lean: what a proof about a class of instructions starts from. -/

namespace Sys2Proof.Machine

open Sys2Proof

theorem exec_insert {i : Instr} {s : State} {k : KeyName} {d : RegNum} {m : Modifiers}
    (h : insertOperands s i = some (k, d, m)) : exec i s = insertPac k d m s := by
  cases i
  case paciasppc =>
    replace h : (if s.cfg.pauthLR then some (KeyName.ia, 30#5, Modifiers.explicit s.sp s.pc) else none) =
      some (k, d, m) := h
    split at h
    · next hp => cases h; simp only [exec, execPaciasppc, hp]; rfl
    · cases h
  all_goals
    first
      | (replace h : none = some (k, d, m) := h
         cases h)
      | (cases Option.some.inj h
         rfl)

theorem exec_authenticate {i : Instr} {s : State} {k : KeyName} {d : RegNum} {m : Modifiers}
    (h : authenticateOperands s i = some (k, d, m)) : exec i s = authenticatePac k d m s := by
  cases i
  all_goals
    first
      | (replace h : none = some (k, d, m) := h
         cases h)
      | (cases Option.some.inj h
         rfl)

theorem exec_branch {i : Instr} {s : State} {k : KeyName} {n : RegNum} {m : Modifiers}
    (h : branchOperands s i = some (k, n, m)) : exec i s = branchAuthenticated k (s.xzr n) m s := by
  cases i <;> simp only [branchOperands] at h <;> first
    | (cases h; done)
    | (injection h with h; obtain ⟨rfl, rfl, rfl⟩ := h; rfl)

theorem exec_link {i : Instr} {s : State} {k : KeyName} {n : RegNum} {m : Modifiers}
    (h : linkOperands s i = some (k, n, m)) : exec i s = callAuthenticated k (s.xzr n) m s := by
  cases i <;> simp only [linkOperands] at h <;> first
    | (cases h; done)
    | (injection h with h; obtain ⟨rfl, rfl, rfl⟩ := h; rfl)

theorem exec_return {i : Instr} {k : KeyName} (s : State) (h : returnKey i = some k) :
    exec i s = authenticatedReturn k s := by
  cases i <;> simp only [returnKey] at h <;> first
    | (cases h; done)
    | (injection h with h; subst h; rfl)

theorem exec_load {i : Instr} {o : LoadOperands} (s : State) (h : loadOperands i = some o) :
    exec i s = authLoad o.key o.dest o.base o.offset o.writeback s := by
  cases i <;> simp only [loadOperands] at h <;> first
    | (cases h; done)
    | (injection h with h; subst h; rfl)

/-- An instruction that ends keeps everything but registers, stack pointers, the pc and PSTATE.PACM. -/
theorem completed_retireAt (s : State) (n : Word) : Completed s (s.retireAt n) n :=
  ⟨rfl, rfl, ⟨rfl, rfl, rfl, rfl, rfl, rfl, rfl, rfl, rfl, rfl⟩, ⟨rfl, rfl, rfl, rfl⟩, fun _ => rfl⟩

theorem wroteRegister_retireAt (s : State) (d : RegNum) (v n : Word) :
    WroteRegister s ((s.setXzr d v).retireAt n) d v n where
  result := fun h => by simpa using xzr_setXzr_same s d v h
  registers := ⟨fun r hr => by simpa using xzr_setXzr_other s d r v hr, rfl⟩
  stackPointers := rfl
  completed := ⟨rfl, rfl, ⟨rfl, rfl, rfl, rfl, rfl, rfl, rfl, rfl, rfl, rfl⟩, ⟨rfl, rfl, rfl, rfl⟩, fun _ => rfl⟩

theorem wroteNothing_retireAt (s : State) (n : Word) : WroteNothing s (s.retireAt n) n where
  registers := fun _ => rfl
  stackPointers := rfl
  completed := completed_retireAt s n

/-- Taking an exception keeps the registers, stack pointers, controls and memory. -/
theorem takeException_keeps (s : State) (r : Raise) :
    RegistersKept s (s.takeException r) ∧ StackPointersKept s (s.takeException r) ∧
      ControlKept s (s.takeException r) ∧ MemoryKept s (s.takeException r) :=
  ⟨fun _ => rfl, rfl, ⟨rfl, rfl, rfl, rfl, rfl, rfl, rfl, rfl, rfl, rfl⟩, fun _ => rfl⟩

end Sys2Proof.Machine
end

