-- ==== Sys2Proof/Tests/Slice0.lean ====
section
/-! SUPPORT. Tests: the checks of WellFormed, the decoding of words written out from 30_encoding.md, the vectors of
95_test_vectors.md (with its stand-in ToyPAC for the PAC algorithm, on the shared functions), one step of each
kind, and for every statement with hypotheses a witness that they can be met. Expected values are those of
95_test_vectors.md or are worked out by hand from the rule named. -/

namespace Sys2Proof.Tests

set_option Elab.async false

open Sys2Proof Sys2Proof.Machine

/-! ## WellFormed refuses an ill-formed term for each check (R86) -/

theorem test_wellFormed_offset_not_scaled :
    (Instr.ldraaOffset 0#5 1#5 4).wellFormed = false ∧ (Instr.ldraaPre 0#5 1#5 12).wellFormed = false ∧
    (Instr.ldrabOffset 0#5 1#5 (-4)).wellFormed = false ∧ (Instr.ldrabPre 0#5 1#5 1).wellFormed = false := by
  decide

theorem test_wellFormed_offset_out_of_range :
    (Instr.ldraaOffset 0#5 1#5 4096).wellFormed = false ∧ (Instr.ldraaPre 0#5 1#5 (-4104)).wellFormed = false ∧
    (Instr.ldrabOffset 0#5 1#5 4096).wellFormed = false ∧ (Instr.ldrabPre 0#5 1#5 (-4104)).wellFormed = false := by
  decide

theorem test_wellFormed_extremes :
    (Instr.ldraaOffset 0#5 1#5 4088).wellFormed = true ∧ (Instr.ldrabPre 0#5 1#5 (-4096)).wellFormed = true := by
  decide

/-! ## Decoding: words written out from the encodings of 30_encoding.md and the words of 95_test_vectors.md -/

/-- Every word of a list decodes to the instruction beside it, which encodes to the word. -/
def decodesTo (rows : List (InstrWord × Instr)) : Bool :=
  rows.all fun r => decide (decodeTableWord 32 r.1.toNat = some r.2) && decide (encode r.2 = r.1)

/-- One word of each format, bit by bit: PACIA X3, X17; PACIZB X3; PACIASP; PACGA X1, X2, X4; BRAA X9, X2;
RET X5; LDRAB X6, [X7, #-8]!; NOP. -/
theorem test_decode_bit_by_bit : decodesTo [
    (0b11011010110000010000001000100011#32, .pacia 3#5 17#5),
    (0b11011010110000010010011111100011#32, .pacizb 3#5),
    (0b11010101000000110010001100111111#32, .paciasp),
    (0b10011010110001000011000001000001#32, .pacga 1#5 2#5 4#5),
    (0b11010111000111110000100100100010#32, .braa 9#5 2#5),
    (0b11010110010111110000000010100000#32, .ret 5#5),
    (0b11111000111111111111110011100110#32, .ldrabPre 6#5 7#5 (-8)),
    (0b11010101000000110010000000011111#32, .nop)] = true := by decide +kernel

theorem test_decode_insert : decodesTo [
    (0xdac10020#32, .pacia 0#5 1#5), (0xdac107e0#32, .pacib 0#5 31#5), (0xdac10862#32, .pacda 2#5 3#5),
    (0xdac10ca4#32, .pacdb 4#5 5#5), (0xdac123e0#32, .paciza 0#5), (0xdac127e0#32, .pacizb 0#5),
    (0xdac12be2#32, .pacdza 2#5), (0xdac12fe4#32, .pacdzb 4#5), (0xd503211f#32, .pacia1716),
    (0xd503215f#32, .pacib1716), (0xd503231f#32, .paciaz), (0xd503233f#32, .paciasp), (0xd503235f#32, .pacibz),
    (0xd503237f#32, .pacibsp), (0xdac1a3fe#32, .paciasppc), (0xdac1003f#32, .pacia 31#5 1#5)] = true := by
  decide +kernel

theorem test_decode_authenticate : decodesTo [
    (0xdac11020#32, .autia 0#5 1#5), (0xdac117e0#32, .autib 0#5 31#5), (0xdac11862#32, .autda 2#5 3#5),
    (0xdac11ca4#32, .autdb 4#5 5#5), (0xdac133e0#32, .autiza 0#5), (0xdac137e0#32, .autizb 0#5),
    (0xdac13be2#32, .autdza 2#5), (0xdac13fe4#32, .autdzb 4#5), (0xd503219f#32, .autia1716),
    (0xd50321df#32, .autib1716), (0xd503239f#32, .autiaz), (0xd50323bf#32, .autiasp), (0xd50323df#32, .autibz),
    (0xd50323ff#32, .autibsp), (0xdac133ff#32, .autiza 31#5)] = true := by decide +kernel

theorem test_decode_strip_generic_pacm : decodesTo [
    (0xdac143e0#32, .xpaci 0#5), (0xdac147e4#32, .xpacd 4#5), (0xd50320ff#32, .xpaclri),
    (0x9ac23020#32, .pacga 0#5 1#5 2#5), (0x9adf33c3#32, .pacga 3#5 30#5 31#5), (0xd50324ff#32, .pacm),
    (0xd503201f#32, .nop)] = true := by decide +kernel

theorem test_decode_branch : decodesTo [
    (0xd71f0822#32, .braa 1#5 2#5), (0xd71f0c22#32, .brab 1#5 2#5), (0xd61f083f#32, .braaz 1#5),
    (0xd61f0c3f#32, .brabz 1#5), (0xd73f0822#32, .blraa 1#5 2#5), (0xd73f0c3f#32, .blrab 1#5 31#5),
    (0xd63f083f#32, .blraaz 1#5), (0xd63f0c3f#32, .blrabz 1#5), (0xd65f0bff#32, .retaa), (0xd65f0fff#32, .retab),
    (0xd65f03c0#32, .ret 30#5), (0xd65f00a0#32, .ret 5#5), (0xd69f0bff#32, .eretaa), (0xd69f0fff#32, .eretab),
    (0xd73f0bc2#32, .blraa 30#5 2#5)] = true := by decide +kernel

theorem test_decode_load : decodesTo [
    (0xf8200420#32, .ldraaOffset 0#5 1#5 0), (0xf8202c20#32, .ldraaPre 0#5 1#5 16),
    (0xf8201c22#32, .ldraaPre 2#5 1#5 8), (0xf8a00420#32, .ldrabOffset 0#5 1#5 0),
    (0xf8a02c20#32, .ldrabPre 0#5 1#5 16), (0xf87ff420#32, .ldraaOffset 0#5 1#5 (-8)),
    (0xf8600420#32, .ldraaOffset 0#5 1#5 (-4096)), (0xf83ff420#32, .ldraaOffset 0#5 1#5 4088),
    (0xf8ffbc22#32, .ldrabPre 2#5 1#5 (-40))] = true := by decide +kernel

/-- A word of no row is none of the instructions (R90): BTI, a reserved D1 word, PACIZA with Rn not 31. -/
theorem test_decode_rejects :
    decodeTableWord 32 0xd503241f = none ∧ decodeTableWord 32 0xdac14bff = none ∧
    decodeTableWord 32 0xdac12000 = none ∧ decodeTableWord 32 0 = none := by decide +kernel

/-- What words of no row are (R89, R90, D34, log 25): hint 127 and YIELD; BTI and BTI jc; PACIZA with Rn not 31, RET with
op4 not zero, BRAAZ with op4 not 31; BR, BLR, ERET and ADD; PACIBSPPC and RETAASPPCR X1. -/
theorem test_noRow_kinds :
    [0xd5032fff#32, 0xd503203f#32, 0xd503241f#32, 0xd50324df#32, 0xdac12000#32, 0xd65f0001#32, 0xd61f0800#32,
      0xd61f0020#32, 0xd63f0020#32, 0xd69f03e0#32, 0x8b010000#32, 0xdac1a7fe#32, 0xd65f0be1#32].map noRowKind =
    [.hint, .hint, .surrounding, .surrounding, .unallocated, .unallocated, .unallocated, .surrounding, .surrounding,
      .surrounding, .surrounding, .pauthLRSpace, .pauthLRSpace] := by decide +kernel

/-! ## The vectors of 95_test_vectors.md -/

/-- rotl64 of 95_test_vectors.md section 2.1. -/
def rotl64 (v : Word) (r : Nat) : Word := v <<< r ||| v >>> (64 - r)

/-- ToyPAC, the stand-in for the PAC algorithm of 95_test_vectors.md section 2.1. -/
def toyPAC (data mod : Word) (key : PacKey) : Word :=
  (data ^^^ rotl64 mod 32 ^^^ key.extractLsb' 64 64 ^^^ rotl64 (key.extractLsb' 0 64) 16) * 0x9e3779b97f4a7c15#64

/-- ComputePAC, ComputePAC2 and ComputePAC2_explicit by ToyPAC. -/
def toyFor (s : State) (k : KeyName) (m : Modifiers) (data : Word) : Word :=
  match m with
  | .one m1 => toyPAC data m1 (s.keys.key k)
  | .two m1 m2 => toyPAC data (div2 m1 m2) (s.keys.key k)
  | .explicit m1 m2 => toyPAC data (div2 m1 m2) (s.keys.key k)

/-- The keys of section 2.2. -/
def toyKeys : KeyRegs where
  apiaKeyHi := 0x0123456789abcdef#64
  apiaKeyLo := 0xfedcba9876543210#64
  apibKeyHi := 0x1111111111111111#64
  apibKeyLo := 0x2222222222222222#64
  apdaKeyHi := 0xa5a5a5a5a5a5a5a5#64
  apdaKeyLo := 0x5a5a5a5a5a5a5a5a#64
  apdbKeyHi := 0x0f1e2d3c4b5a6978#64
  apdbKeyLo := 0x8796a5b4c3d2e1f0#64
  apgaKeyHi := 0xdeadbeefcafef00d#64
  apgaKeyLo := 0x0badc0de00ddba11#64

/-- TCR_EL1 with these sizes and no tagging. -/
def sizes (t0sz t1sz : BitVec 6) : Tcr := ⟨t0sz, t1sz, false, false, false, false, false, false⟩

/-- Configuration A of section 2.5 at EL0, without FEAT_PAuth_LR, on one rung of the feature ladder. -/
def cfgA (level : PacLevel) : State :=
  { State.reset with
    cfg := { Config.initial with level := level, pauthLR := false, tnszMin := 12#6 }
    pstate := { ProcState.reset with el := .el0 }
    tcr := PerLevel.all (sizes 16#6 16#6)
    sctlr := PerLevel.all ⟨true, true, true, true⟩
    hcrEl2 := ⟨true, true, false, false⟩
    scrEl3 := ⟨true, true⟩
    keys := toyKeys
    sps := ⟨0x00007ffffffff000#64, 0#64, 0#64, 0#64⟩
    pc := 0x400800#64 }

/-- AddPAC of a pointer by ToyPAC. -/
def toySign (s : State) (k : KeyName) (m : Modifiers) (ptr : Word) : Word :=
  addPAC s.cfg (s.pacContext ptr k.isInstr true) (toyFor s k m) ptr

/-- Auth of a pointer by ToyPAC. -/
def toyCheck (s : State) (k : KeyName) (m : Modifiers) (ptr : Word) : AuthResult :=
  auth s.cfg (s.pacContext ptr k.isInstr false) (toyFor s k m) k.number ptr

/-- Section 3.1, without and with FEAT_PAuth2: a lower range pointer, and an upper range one where they differ. -/
theorem test_toy_insert :
    toySign (cfgA .pauth) .ia (.one 0x1234#64) 0x401000#64 = 0x026b000000401000#64 ∧
    toySign (cfgA .pauth2) .ia (.one 0x1234#64) 0x401000#64 = 0x026b000000401000#64 ∧
    toySign (cfgA .pauth) .ib (.one 0x00007ffffffff000#64) 0x401000#64 = 0x5b3a000000401000#64 ∧
    toySign (cfgA .pauth) .da (.one 0x55#64) 0x123456789ab0#64 = 0x6442123456789ab0#64 ∧
    toySign (cfgA .pauth) .db (.one 0xffffffffffffffff#64) 0xffff800000123450#64 = 0x868f800000123450#64 ∧
    toySign (cfgA .pauth2) .db (.one 0xffffffffffffffff#64) 0xffff800000123450#64 = 0x79f0800000123450#64 ∧
    toySign (cfgA .pauth2) .db (.one 0#64) 0xffff800000123450#64 = 0x24c7800000123450#64 := by
  decide +kernel

/-- Section 3.2: correct and incorrect, an A key and a B key, without and with FEAT_PAuth2. -/
theorem test_toy_authenticate :
    toyCheck (cfgA .pauth) .ia (.one 0x1234#64) 0x026b000000401000#64 = .correct 0x401000#64 ∧
    toyCheck (cfgA .pauth) .ia (.one 0x1235#64) 0x026b000000401000#64 = .incorrect 0x2000000000401000#64 ∧
    toyCheck (cfgA .pauth2) .ia (.one 0x1235#64) 0x026b000000401000#64 = .incorrect 0x814a000000401000#64 ∧
    toyCheck (cfgA .pauth) .db (.one 0#64) 0x868f800000123450#64 = .incorrect 0xdfff800000123450#64 ∧
    toyCheck (cfgA .pauth2) .db (.one 0xffffffffffffffff#64) 0x868f800000123450#64 =
      .incorrect 0x0080800000123450#64 ∧
    toyCheck (cfgA .pauth2) .db (.one 0#64) 0x24c7800000123450#64 = .correct 0xffff800000123450#64 ∧
    toyCheck (cfgA .pauth) .ib (.one 0#64) 0x2072000000401000#64 = .incorrect 0x4000000000401000#64 := by
  decide +kernel

/-- Sections 2.3 and 3.8: the two diversifiers as one, and PACIASPPC at 0x400800. -/
theorem test_toy_two_modifiers :
    div2 0x00007ffffffff000#64 0x400820#64 = 0x00020041ffffff00#64 ∧
    div2 0x1234567890#64 0x401000#64 = 0x0002008023456789#64 ∧
    div2 0x1000000000#64 0x2000000000#64 = 0#64 ∧ div2 0xf#64 0x1f#64 = 0#64 ∧
    toySign (cfgA .pauth) .ia (.explicit 0x00007ffffffff000#64 0x400800#64) 0x401000#64 = 0xce43000000401000#64 ∧
    toySign (cfgA .pauth2) .ib (.two 0xcafe#64 0x400900#64) 0x401000#64 = 0x1624000000401000#64 ∧
    toyCheck (cfgA .pauth) .ia (.two 0x00007ffffffff000#64 0x40080c#64) 0xce43000000401000#64 =
      .correct 0x401000#64 := by
  decide +kernel

/-- Section 2.4: field masks for bottom_PAC_bit 48, 39 and 52. -/
theorem test_field_masks :
    pacFieldMask 48 false false false = 0xff7f000000000000#64 ∧
    pacFieldMask 48 true false false = 0x007f000000000000#64 ∧
    pacFieldMask 48 false true false = 0xf07f000000000000#64 ∧
    pacFieldMask 39 false false false = 0xff7fff8000000000#64 ∧
    pacFieldMask 52 true false false = 0x0070000000000000#64 ∧
    pacFieldMask 52 false true true = 0xf070000000000000#64 := by
  decide +kernel

/-- R104 to R106 above bottom_PAC_bit 52 in a regime with a single range: the field takes in bit 55. -/
theorem test_field_masks_wide :
    pacFieldMask 54 true false true = 0x00c0000000000000#64 ∧
    pacFieldMask 54 false true true = 0xf0c0000000000000#64 ∧
    pacFieldMask 54 false false true = 0xffc0000000000000#64 ∧
    pacFieldMask 54 false false false = 0xff40000000000000#64 := by
  decide +kernel

/-- Sections 4.2 and 4.3: signing twice, and non-canonical input. -/
theorem test_toy_corrupted :
    toySign (cfgA .pauth) .ia (.one 0x1234#64) 0x026b000000401000#64 = 0x426b000000401000#64 ∧
    toySign (cfgA .epac) .ia (.one 0x1234#64) 0x026b000000401000#64 = 0x401000#64 ∧
    toySign (cfgA .pauth2) .ia (.one 0x1234#64) 0x026b000000401000#64 = 0x401000#64 ∧
    toySign (cfgA .pauth) .ia (.one 0x00007ffffffff000#64) 0x0010000000401000#64 = 0x3e3d000000401000#64 ∧
    toySign (cfgA .pauth2) .ia (.one 0x00007ffffffff000#64) 0x0010000000401000#64 = 0x7e2d000000401000#64 := by
  decide +kernel

/-- Section 4.3: bit 63 unequal to bit 55, with T0SZ 16 and T1SZ 25, without and with FEAT_CONSTPACFIELD. -/
theorem test_toy_selection :
    let s := { cfgA .pauth with tcr := PerLevel.all (sizes 16#6 25#6) }
    toySign s .ia (.one 0#64) 0x8000000000401000#64 = 0x9996518000401000#64 ∧
    toySign { s with cfg := { s.cfg with constPacField := true } } .ia (.one 0#64) 0x8000000000401000#64 =
      0x6072000000401000#64 := by
  decide +kernel

/-- Section 4.4: address tagging with TBI0 = 1, TBID0 = 1, and TBI1 = 1. -/
theorem test_toy_tagging :
    let s := { cfgA .pauth with tcr := PerLevel.all { sizes 16#6 16#6 with tbi0 := true, tbid0 := true } }
    let u := { cfgA .pauth2 with tcr := PerLevel.all { sizes 16#6 16#6 with tbi1 := true } }
    toySign s .da (.one 0x1234#64) 0xab00000000401000#64 = 0xab72000000401000#64 ∧
    toyCheck s .da (.one 0x1235#64) 0xab72000000401000#64 = .incorrect 0xab20000000401000#64 ∧
    toySign s .ia (.one 0#64) 0x401000#64 = 0x2072000000401000#64 ∧
    s.strip 0xab72000000401000#64 true = 0x401000#64 ∧ s.strip 0xab72000000401000#64 false = 0xab00000000401000#64 ∧
    toySign u .da (.one 0#64) 0x12ff800000123450#64 = 0x12c7800000123450#64 := by
  decide +kernel

/-- Section 4.4: logical address tagging. -/
theorem test_toy_logical_tagging :
    let s := { cfgA .pauth with cfg := { (cfgA .pauth).cfg with latLower := true, latUpper := true } }
    toySign s .ia (.one 0x1234#64) 0x0500000000401000#64 = 0x456b000000401000#64 ∧
    toyCheck s .ia (.one 0x1235#64) 0x456b000000401000#64 = .incorrect 0x2500000000401000#64 ∧
    s.strip 0x456b000000401000#64 true = 0x0500000000401000#64 := by
  decide +kernel

/-- Section 4.5: T0SZ = 12 and 39. -/
theorem test_toy_sizes :
    toySign { cfgA .pauth with tcr := PerLevel.all (sizes 12#6 16#6) } .da (.one 0#64) 0x0004000000401000#64 =
      0x8b74000000401000#64 ∧
    toySign { cfgA .pauth with tcr := PerLevel.all (sizes 39#6 16#6) } .da (.one 0#64) 0x1401000#64 =
      0xc24dd136bf401000#64 := by
  decide +kernel

/-- Section 3.4: strip and generic. -/
theorem test_strip_and_generic :
    (cfgA .pauth).strip 0x026b000000401000#64 true = 0x401000#64 ∧
    (cfgA .pauth).strip 0x868f800000123450#64 false = 0xffff800000123450#64 ∧
    (cfgA .pauth).strip 0x0080000000401000#64 false = 0xffff000000401000#64 ∧
    genericPAC (toyPAC 0x1122334455667788#64 0x99aabbccddeeff00#64 toyKeys.genericKey) = 0x57a7e98a00000000#64 := by
  decide +kernel

/-! ## One step of each kind -/

/-- The next state of an outcome, if there is one. -/
def after : Host.Outcome State Fault Refusal → Option State
  | .next t => some t
  | .fault _ => none
  | .refused _ => none

/-- Configuration A with every key disabled (section 3.7), so that no PAC algorithm is needed. -/
def disabled : State := { cfgA .fpacCombine with sctlr := PerLevel.all ⟨false, false, false, false⟩ }

/-- R123: a disabled AUTIA is a NOP; its register keeps the PAC. -/
theorem test_autia_disabled :
    (after (exec (.autia 0#5 1#5) (disabled.setXzr 0#5 0x7e3d000000401000#64))).map
      (fun t => (t.xzr 0#5, t.pc)) = some (0x7e3d000000401000#64, 0x400804#64) := by decide +kernel

/-- R123, R197: a disabled BLRAAZ is BLR; X30 receives pc + 4. -/
theorem test_blraaz_disabled :
    (after (exec (.blraaz 1#5) (disabled.setXzr 1#5 0x402000#64))).map
      (fun t => (t.xzr 30#5, t.pc)) = some (0x400804#64, 0x402000#64) := by decide +kernel

/-- R195, section 4.6: BLRAA X30 reads its target before X30 is written. -/
theorem test_blraa_x30 :
    (after (exec (.blraa 30#5 2#5) (disabled.setXzr 30#5 0x402000#64))).map
      (fun t => (t.xzr 30#5, t.pc)) = some (0x400804#64, 0x402000#64) := by decide +kernel

/-- R181, section 3.4: XPACI X0. -/
theorem test_xpaci :
    (after (exec (.xpaci 0#5) ((cfgA .pauth).setXzr 0#5 0x2000000000401000#64))).map
      (fun t => (t.xzr 0#5, t.pc)) = some (0x401000#64, 0x400804#64) := by decide +kernel

/-- R201: RET X5. -/
theorem test_ret :
    (after (exec (.ret 5#5) (disabled.setXzr 5#5 0x401000#64))).map (fun t => t.pc) = some 0x401000#64 := by
  decide +kernel

/-- Memory of section 3.6. -/
def loadMemory : Memory :=
  Memory.writeBytes [] 0x500000#64
    [0x88#8, 0x77#8, 0x66#8, 0x55#8, 0x44#8, 0x33#8, 0x22#8, 0x11#8,
     0xf0#8, 0xde#8, 0xbc#8, 0x9a#8, 0x78#8, 0x56#8, 0x34#8, 0x12#8]

/-- Section 3.7: LDRAA with EnDA = 0 loads through X1 as it stands, the lowest byte first. -/
theorem test_ldraa_disabled :
    (after (exec (.ldraaOffset 0#5 1#5 0) ({ disabled with mem := loadMemory }.setXzr 1#5 0x500000#64))).map
      (fun t => t.xzr 0#5) = some 0x1122334455667788#64 := by decide +kernel

/-- R206: writeback leaves the address in the base. -/
theorem test_ldraa_pre_disabled :
    (after (exec (.ldraaPre 2#5 1#5 8) ({ disabled with mem := loadMemory }.setXzr 1#5 0x500000#64))).map
      (fun t => (t.xzr 2#5, t.xzr 1#5)) = some (0x123456789abcdef0#64, 0x500008#64) := by decide +kernel

/-- Section 3.7: LDRAA with EnDA = 0 through a signed pointer takes VAFault: to EL1, its address in FAR_EL1. -/
theorem test_ldraa_disabled_fault :
    (after (exec (.ldraaOffset 0#5 1#5 0) (disabled.setXzr 1#5 0x5750000000500000#64))).map
      (fun t => (t.far.el1, t.elr.el1, t.pstate.el)) = some (0x5750000000500000#64, 0x400800#64, .el1) := by
  decide +kernel

/-- D25: a pre-indexed load over its own base is refused. -/
theorem test_ldraa_overlap :
    exec (.ldraaPre 1#5 1#5 8) (cfgA .pauth) = .refused (.writebackToDestination 1#5) := rfl

/-- Configuration A with FEAT_PAuth_LR and the effects of PACM enabled at EL0 (section 3.8). -/
def withPacm : State :=
  { cfgA .pauth with
    cfg := { (cfgA .pauth).cfg with pauthLR := true }
    sctlr2 := PerLevel.all ⟨true, true⟩
    hcrxEl2 := ⟨true⟩ }

/-- R221, R222: PACM sets PSTATE.PACM, and NOP clears it. -/
theorem test_pacm :
    (after (exec .pacm withPacm)).map (fun t => (t.pstate.pacm, t.pc)) = some (true, 0x400804#64) := by
  decide +kernel

theorem test_nop_clears_pacm :
    (after (exec .nop { withPacm with pstate := { withPacm.pstate with pacm := true } })).map
      (fun t => (t.pstate.pacm, t.pc)) = some (false, 0x400804#64) := by decide +kernel

/-- R252: with HCR_EL2.API = 0 an enabled PAC instruction at EL0 traps to EL2, EC 0b001001. -/
theorem test_trap :
    (after (exec (.paciza 0#5) { cfgA .pauth with hcrEl2 := ⟨false, true, false, false⟩ })).map
      (fun t => (t.pstate.el, t.elr.el2, t.esr.el2.ec, t.xzr 0#5)) =
      some (.el2, 0x400800#64, 0b001001#6, 0#64) := by decide +kernel

/-- R202: ERETAA at EL0 is UNDEFINED. -/
theorem test_eretaa_el0 :
    (after (exec .eretaa (cfgA .pauth))).map (fun t => (t.pstate.el, t.spsr.el1.el, t.esr.el1.ec)) =
      some (.el1, .el0, 0#6) := by decide +kernel

/-- R244: PACFail(0b11) is taken to EL1 with its syndrome. -/
theorem test_pac_fail :
    let t := (cfgA .fpac).takeException (.pacFail 0b11#2)
    (t.esr.el1, t.elr.el1, t.pstate.el, t.pstate.daif) = (⟨0b011100#6, true, 3#25⟩, 0x400800#64, .el1, 0b1111#4) := by
  decide +kernel

/-- R89: hint 127 is a NOP; R90: PACIZA with Rn not 31 is UNDEFINED, with FEAT_PAuth_LR too. -/
theorem test_unallocated_words :
    (after (step (withPacm.withFetchWord 32 0xd5032fff))).map (fun t => (t.pc, t.pstate.el)) =
      some (0x400804#64, .el0) ∧
    (after (step (withPacm.withFetchWord 32 0xdac12000))).map (fun t => (t.elr.el1, t.pstate.el, t.esr.el1.ec)) =
      some (0x400800#64, .el1, 0#6) := by decide +kernel

/-- R40: bits 31, 30, 27 and 13 of SCTLR_ELx, 7 and 8 of SCTLR2_ELx, 35 of SPSR_ELx; EC, IL and ISS of ESR_ELx. -/
theorem test_layout :
    (Sctlr.mk true false true true).write 0#64 = 0x88002000#64 ∧ Sctlr.read 0x40000000#64 = ⟨false, true, false, false⟩ ∧
    (Sctlr2.mk false true).write 0#64 = 0x100#64 ∧ Sctlr2.read 0x80#64 = ⟨true, false⟩ ∧
    writePacm true 0#64 = 0x800000000#64 ∧ writeSyndrome ⟨0b011100#6, true, 3#25⟩ 0#64 = 0x72000003#64 ∧
    readSyndrome 0x72000003#64 = ⟨0b011100#6, true, 3#25⟩ := by decide +kernel

/-- R40: TCR_ELx with two VA ranges and with one, APA and API of ID_AA64ISAR1_EL1. -/
theorem test_layout_tcr_id :
    let r : Tcr := { sizes 16#6 25#6 with tbi0 := true, tbid1 := true, tbi := true, tbid := true }
    r.writeTwoRanges 0#64 = 0x0010002000190010#64 ∧ r.writeSingleRange 0#64 = 0x20100010#64 ∧
    r.readTwoRanges 0x0010002000190010#64 = r ∧ r.readSingleRange 0x20100010#64 = r ∧
    (cfgA .fpac).idAa64isar1.write 0#64 = 0x01000040#64 ∧
    withPacm.cfg.pauthLR = true ∧ featureValue Config.initial = 0b0110#4 := by decide +kernel

/-- R255: ERETAB at EL1 with its key disabled restores PSTATE from SPSR_EL1 and the pc from ELR_EL1. -/
theorem test_eretab_disabled :
    (after (exec .eretab { disabled with
        pstate := { disabled.pstate with el := .el1 }
        elr := ⟨0x401000#64, 0#64, 0#64⟩
        spsr := ⟨⟨0b1010#4, 0b0011#4, .el0, false, true⟩, ProcState.zero, ProcState.zero⟩ })).map
      (fun t => (t.pc, t.pstate)) = some (0x401000#64, ⟨0b1010#4, 0b0011#4, .el0, false, false⟩) := by
  decide +kernel

/-! ## Pointers whose check is known, whatever the PAC algorithm -/

/-- `w` with the bits of its own PAC in its field. -/
def signed (s : State) (k : KeyName) (m : Modifiers) (w : Word) : Word :=
  w ||| (s.pacFor k m w &&& (s.pacContext w k.isInstr false).field)

/-- `w` with the complement of its own PAC in its field. -/
def forged (s : State) (k : KeyName) (m : Modifiers) (w : Word) : Word :=
  w ||| (~~~s.pacFor k m w &&& (s.pacContext w k.isInstr false).field)

/-- What the pointers above need of `w`: an unsigned pointer of the lower range, and a field that is not empty. -/
def plainPointer (s : State) (k : KeyName) (w : Word) : Bool :=
  let c := s.pacContext w k.isInstr false
  !c.sel && decide (c.field &&& c.ext = c.field) && decide (w &&& c.ext = 0#64) && !w.getLsbD 55 &&
    !c.field.getLsbD 55 && decide (c.field ≠ 0#64)

theorem context_placed {s : State} {k : KeyName} {w : Word} (x : Word) (h : plainPointer s k w = true) :
    s.pacContext (w ||| (x &&& (s.pacContext w k.isInstr false).field)) k.isInstr false =
      s.pacContext w k.isInstr false := by
  have h55 : (w ||| (x &&& (s.pacContext w k.isInstr false).field)).getLsbD 55 = w.getLsbD 55 := by
    simp only [plainPointer, Bool.and_eq_true, Bool.not_eq_true'] at h
    rw [BitVec.getLsbD_or, BitVec.getLsbD_and, h.1.2]; simp
  exact pacContext_congr h55

theorem context_forged {s : State} {k : KeyName} {w : Word} (m : Modifiers) (h : plainPointer s k w = true) :
    s.pacContext (forged s k m w) k.isInstr false = s.pacContext w k.isInstr false := context_placed _ h

theorem extend_placed {s : State} {k : KeyName} {w : Word} (x : Word) (h : plainPointer s k w = true) :
    (s.pacContext w k.isInstr false).extend (w ||| (x &&& (s.pacContext w k.isInstr false).field)) = w := by
  simp only [plainPointer, Bool.and_eq_true, Bool.not_eq_true', decide_eq_true_eq] at h
  obtain ⟨⟨⟨⟨⟨hs, hf⟩, hw⟩, _⟩, _⟩, _⟩ := h
  generalize s.pacContext w k.isInstr false = c at *
  rw [and_eq_mask_iff_sub] at hf
  rw [and_eq_zero_iff] at hw
  refine eq_of_bits fun i hi => ?_
  rw [getLsbD_extend _ _ _ hi, BitVec.getLsbD_or, BitVec.getLsbD_and, hs]
  cases he : c.ext.getLsbD i
  · have : c.field.getLsbD i = false := by
      by_contra hc
      rw [hf i hi (by simpa using hc)] at he; cases he
    rw [this]; simp
  · rw [hw i hi he]; simp

/-- A signed pointer is found correct and gives the plain pointer. -/
theorem check_signed {s : State} {k : KeyName} {w : Word} (m : Modifiers) (h : plainPointer s k w = true) :
    s.checkPAC k (signed s k m w) m = .correct w := by
  have hx := extend_placed (s.pacFor k m w) h
  rw [checkPAC_correct]
  simp only [signed, context_placed _ h, auth, hx]
  simp only [plainPointer, Bool.and_eq_true, Bool.not_eq_true', decide_eq_true_eq] at h
  obtain ⟨⟨⟨⟨⟨hs, hf⟩, hw⟩, _⟩, _⟩, _⟩ := h
  generalize s.pacContext w k.isInstr false = c at *
  rw [and_eq_mask_iff_sub] at hf
  rw [and_eq_zero_iff] at hw
  have hwf : ∀ i, i < 64 → c.field.getLsbD i = true → w.getLsbD i = false := fun i hi h => hw i hi (hf i hi h)
  cases hp : s.cfg.featPAuth2
  · rw [if_neg (by simp), if_pos]
    rw [and_eq_and_iff]
    intro i hi hc
    rw [BitVec.getLsbD_or, BitVec.getLsbD_and, hwf i hi hc, hc]; simp
  · have hr : w ||| (s.pacFor k m w &&& c.field) = w ^^^ (s.pacFor k m w &&& c.field) := by
      refine eq_of_bits fun i hi => ?_
      rw [BitVec.getLsbD_or, BitVec.getLsbD_xor, BitVec.getLsbD_and]
      cases hc : c.field.getLsbD i
      · simp
      · rw [hwf i hi hc]; simp
    rw [hr, BitVec.xor_assoc, BitVec.xor_self, BitVec.xor_zero, if_pos rfl, if_pos]
    rw [and_eq_and_iff]
    intro i hi hc
    rw [hwf i hi hc, getLsbD_replicateBit, hs]; rfl

/-- Auth finds a forged pointer incorrect: without FEAT_PAuth2 it gives the plain pointer with the error code. -/
theorem auth_forged {s : State} {k : KeyName} {w : Word} (m : Modifiers) (h : plainPointer s k w = true) :
    ∃ p, auth s.cfg (s.pacContext (forged s k m w) k.isInstr false) (s.pacFor k m) k.number (forged s k m w) =
        .incorrect p ∧
      (s.cfg.featPAuth2 = false → p = errorCode (s.pacContext w k.isInstr false) k.number w) := by
  have hx := extend_placed (~~~s.pacFor k m w) h
  simp only [forged, context_placed _ h, auth, hx]
  simp only [plainPointer, Bool.and_eq_true, Bool.not_eq_true', decide_eq_true_eq] at h
  obtain ⟨⟨⟨⟨⟨hs, hf⟩, hw⟩, _⟩, _⟩, hne⟩ := h
  generalize s.pacContext w k.isInstr false = c at *
  rw [and_eq_mask_iff_sub] at hf
  rw [and_eq_zero_iff] at hw
  have hwf : ∀ i, i < 64 → c.field.getLsbD i = true → w.getLsbD i = false := fun i hi h => hw i hi (hf i hi h)
  obtain ⟨i, hi, hc⟩ : ∃ i, i < 64 ∧ c.field.getLsbD i = true := by
    by_contra hn
    refine hne (eq_of_bits fun i hi => ?_)
    rw [BitVec.getLsbD_zero]
    by_contra hc
    exact hn ⟨i, hi, by simpa using hc⟩
  cases hp : s.cfg.featPAuth2
  · rw [if_neg (by simp), if_neg]
    · exact ⟨_, rfl, fun _ => rfl⟩
    · rw [and_eq_and_iff]
      intro he
      have := he i hi hc
      rw [BitVec.getLsbD_or, BitVec.getLsbD_and, BitVec.getLsbD_not, hwf i hi hc, hc] at this
      simp [hi] at this
  · rw [if_pos rfl, if_neg]
    · exact ⟨_, rfl, fun h => by cases h⟩
    · rw [and_eq_and_iff]
      intro he
      have := he i hi hc
      rw [BitVec.getLsbD_xor, BitVec.getLsbD_or, BitVec.getLsbD_and, BitVec.getLsbD_and, BitVec.getLsbD_not,
        hwf i hi hc, hc, getLsbD_replicateBit, hs] at this
      simp [hi] at this

/-- A forged pointer is found incorrect. -/
theorem check_forged {s : State} {k : KeyName} {w : Word} (m : Modifiers) (h : plainPointer s k w = true) :
    ∃ p, s.checkPAC k (forged s k m w) m = .incorrect p := by
  obtain ⟨p, hp, _⟩ := auth_forged m h
  exact ⟨_, checkPAC_incorrect.2 ⟨p, hp, rfl⟩⟩

/-- Without FEAT_PAuth2 and up to bottom_PAC_bit 52 it gives the plain pointer with the error code. -/
theorem check_forged_code {s : State} {k : KeyName} {w : Word} (m : Modifiers) (h : plainPointer s k w = true)
    (hp : s.cfg.featPAuth2 = false) (hb : (s.pacContext w k.isInstr false).bottom ≤ 52) :
    s.checkPAC k (forged s k m w) m =
      .incorrect (errorCode (s.pacContext w k.isInstr false) k.number w) := by
  obtain ⟨p, ha, he⟩ := auth_forged m h
  exact checkPAC_incorrect.2 ⟨p, ha, by rw [context_forged m h, if_pos hb, he hp]⟩

/-! ## Witnesses: the hypotheses of each statement can be met -/

/-- An outcome that is a next state with a property. -/
theorem next_such {o : Host.Outcome State Fault Refusal} {p : State → Bool} (h : (after o).any p = true) :
    ∃ t, o = .next t ∧ p t = true := by
  cases o with
  | next t => exact ⟨t, rfl, by simpa [after] using h⟩
  | fault r => simp [after] at h
  | refused r => simp [after] at h

/-- The word `w` placed at the pc. -/
abbrev placed (s : State) (w : Nat) : State := s.withFetchWord 32 w

/-- PAC instructions act in configuration A. -/
theorem acts (level : PacLevel) (k : KeyName) : (cfgA level).Acts k := by
  cases level <;> cases k <;> exact ⟨by decide +kernel, by decide +kernel⟩

/-- 0x401000 is an unsigned pointer there. -/
theorem plain_A (level : PacLevel) (k : KeyName) : plainPointer (cfgA level) k 0x401000#64 = true := by
  cases level <;> cases k <;> decide +kernel

/-- The pointer 0x401000 signed under key `k` with modifier zero in register `d` of configuration A. -/
def holdingSigned (level : PacLevel) (k : KeyName) (d : RegNum) : State :=
  (cfgA level).setXzr d (signed (cfgA level) k (.one 0#64) 0x401000#64)

/-- The same pointer forged. -/
def holdingForged (level : PacLevel) (k : KeyName) (d : RegNum) : State :=
  (cfgA level).setXzr d (forged (cfgA level) k (.one 0#64) 0x401000#64)

theorem holdingSigned_check (level : PacLevel) (k : KeyName) {d : RegNum} (hd : d ≠ 31#5) :
    (holdingSigned level k d).checkPAC k ((holdingSigned level k d).xzr d) (.one 0#64) =
      .correct 0x401000#64 := by
  rw [show (holdingSigned level k d).xzr d = _ from xzr_setXzr_same _ _ _ hd]
  exact check_signed (s := cfgA level) _ (plain_A level k)

theorem holdingForged_check (level : PacLevel) (k : KeyName) {d : RegNum} (hd : d ≠ 31#5) :
    ∃ p, (holdingForged level k d).checkPAC k ((holdingForged level k d).xzr d) (.one 0#64) = .incorrect p := by
  rw [show (holdingForged level k d).xzr d = _ from xzr_setXzr_same _ _ _ hd]
  exact check_forged (s := cfgA level) _ (plain_A level k)

theorem holdingSigned_authenticate (level : PacLevel) (k : KeyName) {d : RegNum} (hd : d ≠ 31#5) (comb : Bool) :
    (holdingSigned level k d).authenticate k ((holdingSigned level k d).xzr d) (.one 0#64) comb =
      .ok 0x401000#64 := by
  unfold State.authenticate
  rw [show (holdingSigned level k d).enabled k = true from (acts level k).1,
    show (holdingSigned level k d).trapPAC = none from (acts level k).2, holdingSigned_check level k hd]
  rfl

theorem witness_DecodeInvertsEncode :
    (Instr.ldraaPre 0#5 1#5 (-4096)).wellFormed = true ∧ (Instr.ldrabOffset 31#5 31#5 4088).wellFormed = true := by
  decide

theorem witness_DecodedWordIsTheInstructionsWord :
    decodeWord 0xf8600420#32 = some (.ldraaOffset 0#5 1#5 (-4096)) := by decide +kernel

theorem witness_EncodingRowsAreDisjoint :
    ∃ r ∈ encodingRows, 0xdac103ff#32 &&& r.mask = r.pattern :=
  ⟨encodingRows[0], List.getElem_mem _, by decide +kernel⟩

theorem witness_StepRunsTheDecodedInstruction :
    let s := placed (cfgA .pauth) 0xdac10020
    s.isCanonical s.pc true = true ∧ s.pc.extractLsb' 0 2 = 0#2 ∧
      decode (Memory.readBytes s.mem (s.place s.pc true) 4) = .ok (.pacia 0#5 1#5, []) :=
  ⟨by decide +kernel, by decide +kernel, by rfl⟩

/-- At the top of the address space; and four bytes that are a word at the pc. -/
theorem witness_PlacedInstructionRunsNext :
    let s := { cfgA .pauth with pc := 0xfffffffffffffffc#64 }
    let u := placed (cfgA .pauth) 0xdac123e0
    ((Instr.ldraaPre 0#5 1#5 4088).wellFormed = true ∧ s.isCanonical s.pc true = true ∧ s.pc.extractLsb' 0 2 = 0#2 ∧
      Memory.wf s.mem = true) ∧
    ((Instr.paciza 0#5).wellFormed = true ∧ u.isCanonical u.pc true = true ∧ u.pc.extractLsb' 0 2 = 0#2 ∧
      ∀ j, j < 4 → Memory.read u.mem (u.place u.pc true + BitVec.ofNat 64 j).toNat =
        (encode (.paciza 0#5)).extractLsb' (8 * j) 8) := by decide +kernel

theorem witness_FetchFaultsOutsideCanonicalPc :
    { cfgA .pauth with pc := 0x0001000000000000#64 }.isCanonical 0x0001000000000000#64 true = false ∧
    { cfgA .pauth with pc := 0x0000fffffffffffd#64 }.isCanonical 0x0000fffffffffffd#64 true = true ∧
    (0x0000fffffffffffd#64 : Word).extractLsb' 0 2 ≠ 0#2 := by decide +kernel

/-- A word at the pc of configuration A, without and with FEAT_PAuth_LR, that meets the premises of the statement. -/
def outside (w : InstrWord) : Bool :=
  [cfgA .pauth, withPacm].all fun s =>
    let t := placed s w.toNat
    t.isCanonical t.pc true && decide (t.pc.extractLsb' 0 2 = 0#2) &&
      decide (Memory.readBytes t.mem (t.place t.pc true) 4 = bytesOfWord w) && decide (decodeWord w = none)

/-- Hint 127 and BTI; PACIZA with Rn not 31, PACIBSPPC without and with FEAT_PAuth_LR, and BR; ADD. -/
theorem witness_WordsOutsideTheTable :
    [0xd5032fff#32, 0xd503241f#32, 0xdac12000#32, 0xdac1a7fe#32, 0xd61f0020#32, 0x8b010000#32].all outside = true ∧
    (0xd5032fff#32 &&& 0xfffff01f#32 = 0xd503201f#32 ∧ isBTI 0xd5032fff#32 = false) ∧
    (0xd503241f#32 &&& 0xfffff01f#32 = 0xd503201f#32 ∧ isBTI 0xd503241f#32 = true) ∧
    (0xdac12000#32 &&& 0xffff0000#32 = 0xdac10000#32 ∧ isPlainBranch 0xdac12000#32 = false ∧
      inPAuthLRSpace 0xdac12000#32 = false) ∧
    (0xdac1a7fe#32 &&& 0xffff0000#32 = 0xdac10000#32 ∧ isPlainBranch 0xdac1a7fe#32 = false ∧
      inPAuthLRSpace 0xdac1a7fe#32 = true ∧ (cfgA .pauth).cfg.pauthLR = false ∧ withPacm.cfg.pauthLR = true) ∧
    (0xd61f0020#32 &&& 0xfe1f0000#32 = 0xd61f0000#32 ∧ isPlainBranch 0xd61f0020#32 = true) ∧
    (0x8b010000#32 &&& 0xfffff01f#32 ≠ 0xd503201f#32 ∧ 0x8b010000#32 &&& 0xffff0000#32 ≠ 0xdac10000#32 ∧
      0x8b010000#32 &&& 0xfe1f0000#32 ≠ 0xd61f0000#32) := by decide +kernel

/-- A state at EL0 that meets the invariant and holds a NOP, and one that holds an ERETAA, which is UNDEFINED. -/
theorem inv_placed (w : Nat) (h : Memory.wf (placed (cfgA .pauth) w).mem = true) :
    (placed (cfgA .pauth) w).Inv where
  memoryCanonical := h
  levelPresent := rfl
  savedPresent := by intro l; cases l <;> rfl
  savedNotAbove := by intro l; cases l <;> exact Nat.zero_le _
  pacmOnlyEnabled := fun h => by cases h

theorem witness_StepKeepsInvariant :
    ∃ t, (placed (cfgA .pauth) 0xd503201f).Inv ∧ step (placed (cfgA .pauth) 0xd503201f) = .next t := by
  obtain ⟨t, ht, _⟩ := next_such (o := step (placed (cfgA .pauth) 0xd503201f)) (p := fun _ => true)
    (by decide +kernel)
  exact ⟨t, inv_placed _ (by decide +kernel), ht⟩

theorem witness_StepKeepsKeysControlsAndMemory : ∃ t, step (placed (cfgA .pauth) 0xdac123e0) = .next t := by
  obtain ⟨t, ht, _⟩ := next_such (o := step (placed (cfgA .pauth) 0xdac123e0)) (p := fun _ => true)
    (by decide +kernel)
  exact ⟨t, ht⟩

/-- ERETAA at EL1 with a saved PACM of 1 and the effects of PACM enabled at EL0. -/
def returning : State :=
  { withPacm with
    sctlr := PerLevel.all ⟨false, false, false, false⟩
    pstate := { withPacm.pstate with el := .el1 }
    elr := ⟨0x401000#64, 0#64, 0#64⟩
    spsr := ⟨⟨0#4, 0#4, .el0, false, true⟩, ProcState.zero, ProcState.zero⟩ }

theorem witness_PacmIsSetOnlyByPacmOrReturn :
    withPacm.pacmEnabled withPacm.pstate.el = true ∧
    (∃ t, exec .pacm withPacm = .next t ∧ t.pstate.pacm = true) ∧
    ∃ t, exec .eretaa returning = .next t ∧ t.pstate.pacm = true :=
  ⟨by decide +kernel, next_such (p := fun t => t.pstate.pacm) (by decide +kernel),
    next_such (p := fun t => t.pstate.pacm) (by decide +kernel)⟩

/-- HCR_EL2.API = 0: PAC instructions at EL0 trap to EL2. -/
def trapping : State := { cfgA .pauth with hcrEl2 := ⟨false, true, false, false⟩ }

theorem witness_PstateChangesOnlyByExceptionOrReturn :
    (Instr.nop ≠ .eretaa ∧ Instr.nop ≠ .eretab ∧ ∃ t, exec .nop withPacm = .next t) ∧
    (Instr.paciza 0#5 ≠ .eretaa ∧ Instr.paciza 0#5 ≠ .eretab ∧
      ∃ t, exec (.paciza 0#5) trapping = .next t ∧ decide (t.pstate.el = .el2) = true) :=
  ⟨⟨by decide, by decide, _, rfl⟩,
    ⟨by decide, by decide, next_such (p := fun t => decide (t.pstate.el = .el2)) (by decide +kernel)⟩⟩

theorem witness_PrivilegeRisesOnlyByException :
    (placed (cfgA .pauth) 0xd69f0bff).Inv ∧
    ∃ t, step (placed (cfgA .pauth) 0xd69f0bff) = .next t ∧
      decide ((placed (cfgA .pauth) 0xd69f0bff).pstate.el.rank < t.pstate.el.rank) = true :=
  ⟨inv_placed _ (by decide +kernel),
    next_such (p := fun t => decide ((placed (cfgA .pauth) 0xd69f0bff).pstate.el.rank < t.pstate.el.rank))
      (by decide +kernel)⟩

theorem witness_StackPointerWrittenOnlyByLoadWriteback :
    (0#5 ≠ 31#5 ∧ { cfgA .pauth with pstate := ProcState.zero }.pstate.spSel = false ∧ State.reset.pstate.spSel = true) ∧
    ∃ t, exec (.ldrabPre 0#5 31#5 16) disabled = .next t ∧ decide (t.sps ≠ disabled.sps) = true :=
  ⟨by decide +kernel, next_such (p := fun t => decide (t.sps ≠ disabled.sps)) (by decide +kernel)⟩

/-- One rung without FEAT_PAuth_LR and all of them with it; each algorithm. -/
theorem witness_IdentificationFieldsNameTheAlgorithm :
    ((cfgA .epac).cfg.pauthLR = false ∧ (cfgA .epac).cfg.level = .epac) ∧
    (State.reset.cfg.pauthLR = true ∧ State.reset.cfg.level = .fpacCombine) ∧
    State.reset.cfg.method.algorithm = .qarma5 ∧ (PacMethod.imp .full).algorithm = .imp ∧
    PacMethod.qarma3.algorithm = .qarma3 ∧ State.reset.cfg.generic = .qarma5 := by decide +kernel

theorem witness_ExecReadsOnlyEnabledKeys :
    let s := { cfgA .pauth with sctlr := PerLevel.all ⟨false, true, true, true⟩ }
    let keys := { toyKeys with apiaKeyLo := 0#64, apiaKeyHi := 0#64 }
    (∀ k, s.enabled k = true → keys.key k = s.keys.key k) ∧ keys.genericKey = s.keys.genericKey ∧
      keys.key .ia ≠ s.keys.key .ia :=
  ⟨by intro k; cases k <;> decide +kernel, by decide +kernel, by decide +kernel⟩

theorem witness_KeyAndEnableSelection : (cfgA .pauth).trapPAC = none := by decide +kernel

theorem witness_ControllingLevelAndSingleRange :
    { cfgA .pauth with hcrEl2 := ⟨true, true, true, true⟩ }.hostMode = true ∧ (cfgA .pauth).hostMode = false := by
  decide +kernel

theorem witness_TaggingControls : State.reset.singleRange = true ∧ (cfgA .pauth).singleRange = false := by
  decide +kernel

/-- TnSZ at both ends of the permitted range and just outside it, with FEAT_LVA3 (9 to 39) and without (12 to 39, of
the same TnSZ_min), and the three configurations. -/
theorem witness_BottomBitFromTnSZ :
    let cfg := { (cfgA .pauth).cfg with tnszMin := 9#6 }
    let least (lva3 : Bool) := if lva3 then cfg.tnszMin.toNat else if cfg.tnszMin.toNat < 12 then 12 else cfg.tnszMin.toNat
    (cfg.lva3 = false ∧ { cfg with lva3 := true }.lva3 = true) ∧
    (least true ≤ 9 ∧ ¬ least true ≤ 8 ∧ least false ≤ 12 ∧ ¬ least false ≤ 11) ∧
    (39 ≤ cfg.tnszMax.toNat ∧ ¬ 40 ≤ cfg.tnszMax.toNat) ∧
    cfg.tnszOor = .min ∧ { cfg with tnszOor := .max }.tnszOor = .max ∧
    { cfg with tnszOor := .written }.tnszOor = .written := by decide +kernel

theorem witness_SelectionBit :
    let s := cfgA .pauth
    let tagged0 := { s with tcr := PerLevel.all { sizes 16#6 16#6 with tbi0 := true } }
    let tagged1 := { s with tcr := PerLevel.all { sizes 16#6 16#6 with tbi1 := true } }
    { s with cfg := { s.cfg with constPacField := true } }.cfg.constPacField = true ∧
    tagged0.tagUsed false true = true ∧ (tagged1.singleRange = false ∧ tagged1.tagUsed true true = true) ∧
    (s.cfg.constPacField = false ∧ s.tagUsed false true = false ∧ s.tagUsed true true = false) ∧
    (State.reset.cfg.constPacField = false ∧ State.reset.tagUsed false true = false ∧
      State.reset.singleRange = true) := by decide +kernel

theorem witness_PacFieldPositions : 0 < 64 ∧ 63 < 64 ∧ (52 < 53 ∧ true = true) ∧ ¬ (52 < 52 ∧ true = true) := by
  decide

/-- A checked bit at the end of each of the three ranges. -/
theorem witness_CanonicalAddressTest :
    let s := cfgA .pauth
    let tagged := { s with tcr := PerLevel.all { sizes 16#6 16#6 with tbi0 := true } }
    let logical := { s with cfg := { s.cfg with latLower := true } }
    (tagged.tagUsed false false = true ∧ tagged.bottomBit false ≤ 48 ∧ 48 ≤ 55) ∧
    (logical.tagUsed false false = false ∧ logical.latUsed false = true ∧ 60 ≤ 60) ∧
    (s.tagUsed false false = false ∧ s.latUsed false = false ∧ s.bottomBit false ≤ 63) := by decide +kernel

theorem witness_TwoModifiersAreOneDiversifier :
    (div2 0x1234567890#64 0x401000#64).extractLsb' 0 32 = (0x1234567890#64 : Word).extractLsb' 4 32 ∧
    (div2 0x1234567890#64 0x401000#64).extractLsb' 32 32 = (0x401000#64 : Word).extractLsb' 5 32 := by
  decide +kernel

/-- PSTATE.PACM is 1 and its effects are enabled. -/
def pacmSet : State := { withPacm with pstate := { withPacm.pstate with pacm := true } }

theorem witness_PacmGivesTheSecondModifier :
    (pacmSet.cfg.pauthLR = true ∧ pacmSet.cfg.pacmTrivial = false ∧ pacmSet.pstate.pacm = true) ∧
    ¬ (withPacm.cfg.pauthLR = true ∧ withPacm.cfg.pacmTrivial = false ∧ withPacm.pstate.pacm = true) := by
  decide +kernel

/-- A context, and one pointer that is canonical in it and one that is not. -/
def contextA : PacContext := (cfgA .pauth).pacContext 0x401000#64 true true

theorem witness_SignedPointerBits :
    ((cfgA .pauth).selectBit 0x401000#64 true true = false ∧ (cfgA .pauth).bottomBit false = 48 ∧
      { cfgA .pauth with tcr := PerLevel.all (sizes 12#6 12#6) }.bottomBit false = 52) ∧
    contextA.Canonical 0x401000#64 ∧ ¬ contextA.Canonical 0x0010000000401000#64 ∧
    ∀ ptr i, i < 64 →
      (contextA.extend ptr).getLsbD i = if contextA.ext.getLsbD i then contextA.sel else ptr.getLsbD i :=
  ⟨by decide +kernel, .inl (by decide +kernel),
    fun h => h.elim (absurd · (by decide +kernel)) (absurd · (by decide +kernel)),
    fun ptr i hi => getLsbD_extend _ ptr i hi⟩

theorem witness_CorruptedPac :
    (cfgA .pauth2).cfg.featPAuth2 = true ∧
    ((cfgA .epac).cfg.featPAuth2 = false ∧ (cfgA .epac).cfg.featEPAC = true) ∧
    ((cfgA .pauth).cfg.featPAuth2 = false ∧ (cfgA .pauth).cfg.featEPAC = false) ∧ 54 < 64 ∧ 62 < 64 := by
  decide +kernel

/-- With a PAC of zero a canonical pointer is correct and one with a bit of the field set is not. -/
theorem witness_AuthenticationWithoutPAuth2 :
    (cfgA .pauth).cfg.featPAuth2 = false ∧
    (∀ ptr i, i < 64 →
      (contextA.extend ptr).getLsbD i = if contextA.ext.getLsbD i then contextA.sel else ptr.getLsbD i) ∧
    (∀ i, i < 64 → contextA.field.getLsbD i = true → (0#64 : Word).getLsbD i = (0x401000#64 : Word).getLsbD i) ∧
    ¬ (∀ i, i < 64 → contextA.field.getLsbD i = true →
      (0#64 : Word).getLsbD i = (0x0010000000401000#64 : Word).getLsbD i) :=
  ⟨by decide +kernel, fun ptr i hi => getLsbD_extend _ ptr i hi, by decide +kernel,
    fun h => absurd (h 52 (by decide) (by decide +kernel)) (by decide)⟩

theorem witness_AuthenticationWithPAuth2 :
    (cfgA .pauth2).cfg.featPAuth2 = true ∧
    (∀ ptr i, i < 64 →
      (contextA.extend ptr).getLsbD i = if contextA.ext.getLsbD i then contextA.sel else ptr.getLsbD i) ∧
    (∀ ptr : Word, ∀ i, i < 64 →
      ptr.getLsbD i = xor (ptr.getLsbD i) (contextA.field.getLsbD i && (0#64 : Word).getLsbD i)) ∧
    (∀ i, i < 64 → contextA.field.getLsbD i = true → (0x401000#64 : Word).getLsbD i = contextA.sel) ∧
    ¬ (∀ i, i < 64 → contextA.field.getLsbD i = true → (0x0010000000401000#64 : Word).getLsbD i = contextA.sel) :=
  ⟨by decide +kernel, fun ptr i hi => getLsbD_extend _ ptr i hi, fun ptr i _ => by simp, by decide +kernel,
    fun h => absurd (h 52 (by decide) (by decide +kernel)) (by decide +kernel)⟩

/-- bottom_PAC_bit 54 with address tagging in the lower range. -/
def narrow : State :=
  { cfgA .pauth with
    cfg := { (cfgA .pauth).cfg with lva3 := true, tnszMin := 8#6 }
    tcr := PerLevel.all { sizes 10#6 10#6 with tbi0 := true } }

/-- A pointer that Auth finds incorrect at bottom_PAC_bit 52, the last where R109 defines the result, and at 54. -/
theorem witness_AuthenticateOutcomes_check :
    let last := { cfgA .pauth with tcr := PerLevel.all (sizes 12#6 12#6) }
    (∃ ptr r, (last.pacContext ptr true false).bottom ≤ 52 ∧
      auth last.cfg (last.pacContext ptr true false) (last.pacFor .ia (.one 0#64)) false ptr = .incorrect r) ∧
    ∃ ptr r, 52 < (narrow.pacContext ptr true false).bottom ∧
      auth narrow.cfg (narrow.pacContext ptr true false) (narrow.pacFor .ia (.one 0#64)) false ptr = .incorrect r := by
  refine ⟨⟨forged _ .ia (.one 0#64) 0x401000#64, _, ?_,
      (auth_forged (k := .ia) (w := 0x401000#64) (.one 0#64) (by decide +kernel)).choose_spec.1⟩,
    ⟨forged _ .ia (.one 0#64) 0x401000#64, _, ?_,
      (auth_forged (k := .ia) (w := 0x401000#64) (.one 0#64) (by decide +kernel)).choose_spec.1⟩⟩ <;>
    rw [show true = KeyName.isInstr .ia from rfl, context_forged _ (by decide +kernel)] <;> decide +kernel

/-- A disabled key, a trap, a correct and an incorrect PAC; failures that raise and that do not, in both classes. -/
theorem witness_AuthenticateOutcomes :
    disabled.enabled .ia = false ∧ (trapping.enabled .ia = true ∧ trapping.trapPAC = some .el2) ∧
    (∃ ptr, (cfgA .fpac).Acts .ia ∧ (cfgA .fpac).checkPAC .ia ptr (.one 0#64) = .correct 0x401000#64) ∧
    (∃ ptr p, (cfgA .fpac).Acts .db ∧ (cfgA .fpac).checkPAC .db ptr (.one 0#64) = .incorrect p) ∧
    (cfgA .fpac).cfg.featFPAC = true ∧ (cfgA .fpac).cfg.featFPACCOMBINE = false ∧
    (cfgA .pauth2).cfg.featFPAC = false ∧ (cfgA .fpacCombine).cfg.featFPACCOMBINE = true :=
  ⟨by decide +kernel, by decide +kernel, ⟨_, acts _ _, check_signed _ (plain_A _ _)⟩,
    ⟨_, (check_forged (.one 0#64) (plain_A .fpac .db)).choose, acts _ _,
      (check_forged (.one 0#64) (plain_A .fpac .db)).choose_spec⟩,
    by decide +kernel, by decide +kernel, by decide +kernel, by decide +kernel⟩

/-- A bit just below bottom_PAC_bit 48, 52 and 54, and the lowest bit of the tag. -/
theorem witness_PacOperationsKeepAddressBits :
    let tagged := { cfgA .pauth with tcr := PerLevel.all { sizes 12#6 12#6 with tbi0 := true } }
    ((∃ v, (cfgA .pauth).sign .ia 0x401000#64 (.one 0#64) = .ok v) ∧
      47 < ((cfgA .pauth).pacContext 0x401000#64 true true).bottom) ∧
    (51 < (tagged.pacContext 0x401000#64 true false).bottom ∧
      56 ≤ 56 ∧ (tagged.pacContext 0x401000#64 true false).tbi = true ∧
      53 < (narrow.pacContext 0x401000#64 true false).bottom) ∧
    ∃ ptr, (cfgA .pauth).authenticate .ia ptr (.one 0#64) false = .ok 0x401000#64 :=
  ⟨⟨⟨_, rfl⟩, by decide +kernel⟩, by decide +kernel,
    ⟨_, holdingSigned_authenticate .pauth .ia (d := 0#5) (by decide) false⟩⟩

/-- bottom_PAC_bit 48, 52 and 54, without and with FEAT_PAuth2. -/
theorem witness_FailedAuthenticationIsNonCanonical :
    [(cfgA .pauth2), { cfgA .pauth with tcr := PerLevel.all (sizes 12#6 12#6) }, narrow].map
      (fun s => (s.pacContext 0x401000#64 true false).bottom) = [48, 52, 54] ∧
    (∃ ptr v, (cfgA .pauth2).checkPAC .ia ptr (.one 0#64) = .incorrect v) ∧
    (∃ ptr v, { cfgA .pauth with tcr := PerLevel.all (sizes 12#6 12#6) }.checkPAC .ia ptr (.one 0#64) = .incorrect v) ∧
    ∃ ptr v, narrow.checkPAC .ia ptr (.one 0#64) = .incorrect v :=
  ⟨by decide +kernel, ⟨_, check_forged (.one 0#64) (plain_A .pauth2 .ia)⟩,
    ⟨_, check_forged (w := 0x401000#64) (.one 0#64) (by decide +kernel)⟩,
    ⟨_, check_forged (w := 0x401000#64) (.one 0#64) (by decide +kernel)⟩⟩

/-- A pointer of each range, signed in configuration A and authenticated there. -/
theorem witness_SignedPointerAuthenticates :
    SamePointerAuth (cfgA .pauth2) (cfgA .pauth2) ∧ (cfgA .pauth2).enabled .ia = true ∧
    (((cfgA .pauth2).pacContext 0x401000#64 true true).bottom ≤ 52 ∧
      ((cfgA .pauth2).pacContext 0x401000#64 true true).Canonical 0x401000#64) ∧
    (((cfgA .pauth2).pacContext 0xffff800000123450#64 true true).bottom ≤ 52 ∧
      ((cfgA .pauth2).pacContext 0xffff800000123450#64 true true).Canonical 0xffff800000123450#64) ∧
    ∃ q, (cfgA .pauth2).sign .ia 0x401000#64 (.one 0#64) = .ok q :=
  ⟨⟨rfl, rfl, rfl, rfl, rfl, rfl, rfl⟩, by decide +kernel, ⟨by decide +kernel, .inl (by decide +kernel)⟩,
    ⟨by decide +kernel, .inr (by decide +kernel)⟩, _, rfl⟩

/-- bottom_PAC_bit 48 and 52, at the ends of the range of `i`. -/
theorem witness_StrippedPointerBits :
    48 = (cfgA .pauth).bottomBit false ∧ 48 ≤ 52 ∧
    52 = { cfgA .pauth with tcr := PerLevel.all (sizes 12#6 12#6) }.bottomBit false ∧ 0 < 64 ∧ 63 < 64 := by
  decide +kernel

/-- Two ranges; a single range with bit 55 clear; a canonical address. -/
theorem witness_StripGivesCanonicalAddress :
    ((cfgA .pauth).bottomBit false ≤ 52 ∧ (cfgA .pauth).singleRange = false) ∧
    (State.reset.bottomBit false ≤ 52 ∧ State.reset.singleRange = true ∧
      (0x0010000000401000#64 : Word).getLsbD 55 = false) ∧
    (cfgA .pauth).isCanonical 0x401000#64 true = true := by decide +kernel

theorem witness_InsertWritesTheSignedPointer :
    (insertOperands (cfgA .pauth) (.pacdb 31#5 31#5) = some (.db, 31#5, .one 0x00007ffffffff000#64) ∧
      (cfgA .pauth).Acts .db) ∧
    (insertOperands withPacm .paciasppc = some (.ia, 30#5, .explicit 0x00007ffffffff000#64 0x400800#64) ∧
      withPacm.Acts .ia) :=
  ⟨⟨by decide +kernel, acts _ _⟩, ⟨by decide +kernel, by decide +kernel, by decide +kernel⟩⟩

theorem witness_DisabledKeyMakesANop :
    (insertOperands disabled (.paciza 0#5) = some (.ia, 0#5, .one 0#64) ∧ disabled.enabled .ia = false) ∧
    (authenticateOperands disabled .autibz = some (.ib, 30#5, .one 0#64) ∧ disabled.enabled .ib = false) := by
  decide +kernel

/-- PACIZA X0 then AUTIZA X0; and PACIZA XZR. -/
theorem witness_InsertThenAuthenticateRestoresThePointer :
    let s := (cfgA .fpacCombine).setXzr 0#5 0x401000#64
    insertOperands s (.paciza 0#5) = some (.ia, 0#5, .one 0#64) ∧
    insertOperands s (.paciza 31#5) = some (.ia, 31#5, .one 0#64) ∧ s.Acts .ia ∧
    ((s.pacContext (s.xzr 0#5) true true).bottom ≤ 52 ∧ (s.pacContext (s.xzr 31#5) true true).bottom ≤ 52) ∧
    ((s.pacContext (s.xzr 0#5) true true).Canonical (s.xzr 0#5) ∧
      (s.pacContext (s.xzr 31#5) true true).Canonical (s.xzr 31#5)) ∧
    (∃ t, exec (.paciza 0#5) s = .next t ∧ authenticateOperands t (.autiza 0#5) = some (.ia, 0#5, .one 0#64)) ∧
    ∃ t, exec (.paciza 31#5) s = .next t :=
  ⟨by decide +kernel, by decide +kernel, ⟨by decide +kernel, by decide +kernel⟩, by decide +kernel,
    ⟨.inl (by decide +kernel), .inl (by decide +kernel)⟩, ⟨_, rfl, rfl⟩, _, rfl⟩

theorem witness_PaciasppcAgreesWithPacmRoute :
    pacmSet.cfg.pauthLR = true ∧ pacmSet.cfg.method = .qarma5 ∧ pacmSet.pstate.pacm = true := by decide +kernel

theorem witness_AuthenticateWritesTheCheckedPointer :
    authenticateOperands (holdingSigned .pauth .ia 0#5) (.autiza 0#5) = some (.ia, 0#5, .one 0#64) ∧
    (holdingSigned .pauth .ia 0#5).Acts .ia ∧
    (holdingSigned .pauth .ia 0#5).checkPAC .ia ((holdingSigned .pauth .ia 0#5).xzr 0#5) (.one 0#64) =
      .correct 0x401000#64 :=
  ⟨rfl, acts .pauth .ia, holdingSigned_check _ _ (by decide)⟩

/-- Without and with FEAT_FPAC. -/
theorem witness_AuthenticateFailureOutcomes :
    (authenticateOperands (holdingForged .pauth2 .db 30#5) (.autdzb 30#5) = some (.db, 30#5, .one 0#64) ∧
      (holdingForged .pauth2 .db 30#5).Acts .db ∧ (holdingForged .pauth2 .db 30#5).cfg.featFPAC = false ∧
      ∃ p, (holdingForged .pauth2 .db 30#5).checkPAC .db ((holdingForged .pauth2 .db 30#5).xzr 30#5) (.one 0#64) =
        .incorrect p) ∧
    (authenticateOperands (holdingForged .fpac .db 30#5) (.autdzb 30#5) = some (.db, 30#5, .one 0#64) ∧
      (holdingForged .fpac .db 30#5).Acts .db ∧ (holdingForged .fpac .db 30#5).cfg.featFPAC = true ∧
      ∃ p, (holdingForged .fpac .db 30#5).checkPAC .db ((holdingForged .fpac .db 30#5).xzr 30#5) (.one 0#64) =
        .incorrect p) :=
  ⟨⟨rfl, acts .pauth2 .db, rfl, holdingForged_check _ _ (by decide)⟩,
    rfl, acts .fpac .db, rfl, holdingForged_check _ _ (by decide)⟩

theorem witness_StripWritesTheStrippedPointer :
    stripOperands (.xpacd 31#5) = some (31#5, false) ∧ stripOperands .xpaclri = some (30#5, true) := ⟨rfl, rfl⟩

theorem witness_GenericPacFillsTheUpperHalf : (cfgA .pauth).trapPAC = none := by decide +kernel

theorem witness_CombinedBranchGoesToTheCheckedTarget :
    branchOperands (holdingSigned .fpacCombine .ib 1#5) (.brabz 1#5) = some (.ib, 1#5, .one 0#64) ∧
    (holdingSigned .fpacCombine .ib 1#5).authenticate .ib ((holdingSigned .fpacCombine .ib 1#5).xzr 1#5) (.one 0#64)
      true = .ok 0x401000#64 :=
  ⟨rfl, holdingSigned_authenticate _ _ (by decide) true⟩

theorem witness_CombinedCallLinksAndBranches :
    linkOperands (holdingSigned .fpacCombine .ia 30#5) (.blraaz 30#5) = some (.ia, 30#5, .one 0#64) ∧
    (holdingSigned .fpacCombine .ia 30#5).authenticate .ia ((holdingSigned .fpacCombine .ia 30#5).xzr 30#5)
      (.one 0#64) true = .ok 0x401000#64 :=
  ⟨rfl, holdingSigned_authenticate _ _ (by decide) true⟩

/-- EL1 with a forged pointer in ELR_EL1; SP_EL1 is zero. -/
def returningForged : State :=
  { cfgA .fpacCombine with
    pstate := { ProcState.reset with el := .el1 }
    elr := PerLevel.all (forged (cfgA .fpacCombine) .ia (.one 0#64) 0x401000#64) }

/-- A branch, a call, an exception return and a load with a forged pointer, with FEAT_FPACCOMBINE. -/
theorem witness_CombinedFailureOutcomes :
    (cfgA .fpacCombine).cfg.featFPACCOMBINE = true ∧
    (branchOperands (holdingForged .fpacCombine .ia 1#5) (.braaz 1#5) = some (.ia, 1#5, .one 0#64) ∧
      linkOperands (holdingForged .fpacCombine .ia 1#5) (.blraaz 1#5) = some (.ia, 1#5, .one 0#64) ∧
      (holdingForged .fpacCombine .ia 1#5).Acts .ia ∧
      ∃ p, (holdingForged .fpacCombine .ia 1#5).checkPAC .ia ((holdingForged .fpacCombine .ia 1#5).xzr 1#5)
        (.one 0#64) = .incorrect p) ∧
    (returnKey .eretaa = some .ia ∧ returningForged.pstate.el.ownLevel = some .el1 ∧ returningForged.Acts .ia ∧
      ∃ p, returningForged.checkPAC .ia (returningForged.elr.get .el1) (.one returningForged.sp) = .incorrect p) ∧
    (loadOperands (.ldraaPre 0#5 1#5 8) = some ⟨.da, 0#5, 1#5, 8, true⟩ ∧
      ¬ (LoadOperands.mk .da 0#5 1#5 8 true).Overlap ∧
      (LoadOperands.mk .da 0#5 1#5 8 true).BaseAligned (holdingForged .fpacCombine .da 1#5) ∧
      ∃ p, (holdingForged .fpacCombine .da 1#5).checkPAC .da ((holdingForged .fpacCombine .da 1#5).xsp 1#5)
        (.one 0#64) = .incorrect p) :=
  ⟨rfl, ⟨rfl, rfl, acts .fpacCombine .ia, holdingForged_check _ _ (by decide)⟩,
    ⟨rfl, rfl, ⟨by decide +kernel, by decide +kernel⟩,
      check_forged (s := cfgA .fpacCombine) (.one 0#64) (plain_A .fpacCombine .ia)⟩,
    ⟨rfl, fun h => absurd h.2.1 (by decide), fun h => absurd h (by decide), holdingForged_check _ _ (by decide)⟩⟩

/-- With FEAT_PAuth2, a base whose check leaves bit 48 alone set, so that an offset of -8 brings the address back into
the lower range: the pointer is 0x0001000000000000 exclusive-ORed with the PAC of address 0. -/
def justAbove : Word := 0x0001000000000000#64 ^^^ ((cfgA .pauth2).pacFor .da (.one 0#64) 0#64 &&& 0xff7f000000000000#64)

theorem justAbove_check : (cfgA .pauth2).checkPAC .da justAbove (.one 0#64) = .incorrect 0x0001000000000000#64 := by
  have h55 : justAbove.getLsbD 55 = (0#64 : Word).getLsbD 55 := by
    rw [justAbove, BitVec.getLsbD_xor, BitVec.getLsbD_and, show (0xff7f000000000000#64 : Word).getLsbD 55 = false by
      decide +kernel, Bool.and_false]
    decide +kernel
  have hc : (cfgA .pauth2).pacContext justAbove false false = (cfgA .pauth2).pacContext 0#64 false false :=
    pacContext_congr h55
  have hk : (cfgA .pauth2).pacContext 0#64 false false =
      ⟨false, 48, 0xff7f000000000000#64, 0xffff000000000000#64, false⟩ := by decide +kernel
  have hx : (PacContext.mk false 48 0xff7f000000000000#64 0xffff000000000000#64 false).extend justAbove = 0#64 := by
    refine eq_of_bits fun i hi => ?_
    rw [getLsbD_extend _ _ _ hi]
    have hm : ∀ i, i < 64 → (0xffff000000000000#64 : Word).getLsbD i = false →
        (0x0001000000000000#64 : Word).getLsbD i = false ∧ (0xff7f000000000000#64 : Word).getLsbD i = false := by
      decide +kernel
    cases he : (0xffff000000000000#64 : Word).getLsbD i
    · simp only [Bool.false_eq_true, if_false]
      rw [justAbove, BitVec.getLsbD_xor, BitVec.getLsbD_and, (hm i hi he).1, (hm i hi he).2]
      simp
    · simp
  refine checkPAC_incorrect.2 ⟨0x0001000000000000#64, ?_, ?_⟩
  · rw [show KeyName.da.isInstr = false from rfl, hc, hk]
    simp only [auth, hx, show (cfgA .pauth2).cfg.featPAuth2 = true from rfl, if_true]
    rw [show justAbove ^^^ ((cfgA .pauth2).pacFor .da (.one 0#64) 0#64 &&& 0xff7f000000000000#64) =
      0x0001000000000000#64 by rw [justAbove, BitVec.xor_assoc, BitVec.xor_self, BitVec.xor_zero]]
    rw [if_neg (by decide +kernel)]
  · rw [show KeyName.da.isInstr = false from rfl, hc, hk]; rfl

/-- Without FEAT_FPACCOMBINE: an exception return; a load of a non-canonical address; and one of a canonical address, at
the last doubleword of the lower range. -/
theorem witness_CombinedFailureOutcomes_notCombine :
    (cfgA .pauth).cfg.featFPACCOMBINE = false ∧
    (returnKey .eretaa = some .ia ∧ { returningForged with cfg := (cfgA .fpac).cfg }.pstate.el.ownLevel = some .el1 ∧
      { returningForged with cfg := (cfgA .fpac).cfg }.Acts .ia ∧ (cfgA .fpac).cfg.featFPACCOMBINE = false ∧
      ∃ p, { returningForged with cfg := (cfgA .fpac).cfg }.checkPAC .ia (returningForged.elr.get .el1) (.one 0#64) =
        .incorrect p) ∧
    ((cfgA .pauth).checkPAC .da (forged (cfgA .pauth) .da (.one 0#64) 0x500000#64) (.one 0#64) =
        .incorrect 0x2000000000500000#64 ∧
      (cfgA .pauth).isCanonical ((LoadOperands.mk .da 0#5 1#5 8 true).address 0x2000000000500000#64) false = false) ∧
    ((cfgA .pauth2).Acts .da ∧
      (cfgA .pauth2).checkPAC .da justAbove (.one 0#64) = .incorrect 0x0001000000000000#64 ∧
      (cfgA .pauth2).isCanonical ((LoadOperands.mk .da 0#5 1#5 (-8) true).address 0x0001000000000000#64) false = true ∧
      ((LoadOperands.mk .da 0#5 1#5 (-8) true).address 0x0001000000000000#64).extractLsb' 0 3 = 0#3) := by
  have h1 := check_forged_code (s := cfgA .pauth) (k := .da) (w := 0x500000#64) (.one 0#64) (by decide +kernel) rfl
    (by decide +kernel)
  exact ⟨rfl, ⟨rfl, rfl, ⟨by decide +kernel, by decide +kernel⟩, rfl,
      check_forged (s := cfgA .fpac) (.one 0#64) (plain_A .fpac .ia)⟩,
    ⟨h1.trans (congrArg _ (by decide +kernel)), by decide +kernel⟩, acts _ _, justAbove_check, by decide +kernel,
    by decide +kernel⟩

theorem witness_RetBranchesAndDisabledReturnsAreRet :
    disabled.enabled .ia = false ∧ disabled.enabled .ib = false := by decide +kernel

/-- With FEAT_FPAC but not FEAT_FPACCOMBINE. -/
theorem witness_FailedCombinedBranchFaultsAtTheNextFetch :
    branchOperands (holdingForged .fpac .ia 1#5) (.braaz 1#5) = some (.ia, 1#5, .one 0#64) ∧
    (holdingForged .fpac .ia 1#5).Acts .ia ∧ (holdingForged .fpac .ia 1#5).cfg.featFPACCOMBINE = false ∧
    ∃ p, (holdingForged .fpac .ia 1#5).checkPAC .ia ((holdingForged .fpac .ia 1#5).xzr 1#5) (.one 0#64) =
      .incorrect p := by
  exact ⟨rfl, acts .fpac .ia, rfl, holdingForged_check _ _ (by decide)⟩

theorem witness_AuthenticatedReturnRestoresPstate :
    returnKey .eretab = some .ib ∧ returning.pstate.el.ownLevel = some .el1 ∧
    returning.authenticate .ib (returning.elr.get .el1) (.one returning.sp) true = .ok 0x401000#64 :=
  ⟨rfl, rfl, rfl⟩

theorem witness_UndefinedInstructions :
    (cfgA .pauth).pstate.el = .el0 ∧ (cfgA .pauth).cfg.pauthLR = false := by decide +kernel

/-- Base SP with writeback at offset -4096; a misaligned address at the top of the lower range. -/
theorem witness_LoadWritesTheDoubleword :
    (loadOperands (.ldrabPre 0#5 31#5 (-4096)) = some ⟨.db, 0#5, 31#5, -4096, true⟩ ∧
      ¬ (LoadOperands.mk .db 0#5 31#5 (-4096) true).Overlap ∧
      (LoadOperands.mk .db 0#5 31#5 (-4096) true).BaseAligned disabled ∧
      disabled.authenticate .db (disabled.xsp 31#5) (.one 0#64) true = .ok 0x00007ffffffff000#64 ∧
      disabled.isCanonical ((LoadOperands.mk .db 0#5 31#5 (-4096) true).address 0x00007ffffffff000#64) false = true ∧
      ((LoadOperands.mk .db 0#5 31#5 (-4096) true).address 0x00007ffffffff000#64).extractLsb' 0 3 = 0#3) ∧
    (disabled.isCanonical ((LoadOperands.mk .da 0#5 1#5 0 false).address 0x0000ffffffffffff#64) false = true ∧
      disabled.cfg.misalignedLoad = .performs) :=
  ⟨⟨rfl, fun h => h.2.2 rfl, fun _ => by decide +kernel, rfl, by decide +kernel, by decide +kernel⟩,
    by decide +kernel, rfl⟩

theorem witness_OverlappingWritebackIsRefused :
    loadOperands (.ldrabPre 30#5 30#5 0) = some ⟨.db, 30#5, 30#5, 0, true⟩ ∧
    (LoadOperands.mk .db 30#5 30#5 0 true).Overlap := ⟨rfl, rfl, rfl, by decide⟩

/-- A non-canonical address; a misaligned one where the implementation faults it; a misaligned SP, with the key
disabled and with it enabled. -/
theorem witness_LoadExceptions :
    (loadOperands (.ldraaOffset 0#5 1#5 0) = some ⟨.da, 0#5, 1#5, 0, false⟩ ∧
      ¬ (LoadOperands.mk .da 0#5 1#5 0 false).Overlap ∧
      (LoadOperands.mk .da 0#5 1#5 0 false).BaseAligned disabled ∧
      (disabled.setXzr 1#5 0x0001000000000000#64).authenticate .da
        ((disabled.setXzr 1#5 0x0001000000000000#64).xsp 1#5) (.one 0#64) true = .ok 0x0001000000000000#64 ∧
      disabled.isCanonical ((LoadOperands.mk .da 0#5 1#5 0 false).address 0x0001000000000000#64) false = false) ∧
    (disabled.isCanonical ((LoadOperands.mk .da 0#5 1#5 0 false).address 0x500001#64) false = true ∧
      ((LoadOperands.mk .da 0#5 1#5 0 false).address 0x500001#64).extractLsb' 0 3 ≠ 0#3 ∧
      { disabled.cfg with misalignedLoad := .faults }.misalignedLoad = .faults) ∧
    (¬ (LoadOperands.mk .da 0#5 31#5 0 false).BaseAligned { disabled with sps := ⟨8#64, 0#64, 0#64, 0#64⟩ } ∧
      disabled.enabled .da = false ∧ (cfgA .pauth).trapPAC = none) :=
  ⟨⟨rfl, fun h => absurd h.1 (by decide), fun h => absurd h (by decide), rfl, by decide +kernel⟩, by decide +kernel,
    fun h => absurd (h rfl) (by decide +kernel), by decide +kernel, by decide +kernel⟩

theorem witness_PacmEnableControls :
    (cfgA .pauth).cfg.pauthLR = false ∧ withPacm.cfg.pauthLR = true ∧ withPacm.cfg.pacmTrivial = false ∧
    { withPacm.cfg with method := .imp .trivial }.pacmTrivial = true ∧
    (withPacm.el2Gates = true ∧ { withPacm with hcrxEl2 := ⟨false⟩ }.hcrxEl2.pacmEn = false) ∧
    withPacm.hcrxEl2.pacmEn = true ∧ { withPacm with hcrEl2 := ⟨true, true, true, true⟩ }.el2Gates = false := by
  decide +kernel

theorem witness_ExceptionEntry :
    ((∀ l, Raise.undefined ≠ .trap l) ∧ (cfgA .pauth).pstate.el = .el0 ∧ (cfgA .pauth).cfg.el2On = true ∧
      { cfgA .pauth with hcrEl2 := ⟨true, true, false, true⟩ }.hcrEl2.tge = true ∧
      ¬ ((cfgA .pauth).cfg.el2On = true ∧ (cfgA .pauth).hcrEl2.tge = true) ∧
      State.reset.pstate.el = CtlLevel.el3.toEL) ∧
    (cfgA .pauth).exceptionTarget (.fetchFault 0#64) = .el1 ∧ CtlLevel.el3 ≠ CtlLevel.el1 :=
  ⟨⟨fun _ h => (nomatch h), by decide +kernel⟩, by decide +kernel⟩

theorem witness_PacFailSyndromeAndTarget :
    ((cfgA .pauth).pstate.el = .el0 ∧ (cfgA .pauth).cfg.el2On = true ∧
      { cfgA .pauth with hcrEl2 := ⟨true, true, false, true⟩ }.hcrEl2.tge = true) ∧
    ¬ ((cfgA .pauth).cfg.el2On = true ∧ (cfgA .pauth).hcrEl2.tge = true) ∧
    State.reset.pstate.el = CtlLevel.el3.toEL := by decide +kernel

/-- A trap to EL2, a trap to EL3 from EL2, none at EL3, none with both controls 1. -/
theorem witness_TrapControls :
    (trapping.pstate.el = .el0 ∧ trapping.cfg.el2On = true ∧ trapping.hostMode = false ∧
      trapping.hcrEl2.api = false) ∧
    (¬ (EL.el2 = .el0 ∨ EL.el2 = .el1) ∧ EL.el2 ≠ .el3 ∧ State.reset.cfg.haveEL3 = true ∧
      State.reset.scrEl3.api = false) ∧
    (¬ (State.reset.pstate.el = .el0 ∨ State.reset.pstate.el = .el1) ∧ State.reset.pstate.el = .el3) ∧
    ((cfgA .pauth).hcrEl2.api = true ∧ (cfgA .pauth).scrEl3.api = true) := by decide +kernel

/-- An insertion, an exception return at EL1 and a load that trap; and PACGA. -/
theorem witness_TrappedInstructionTakesTheTrap :
    trapping.trapPAC = some .el2 ∧ (UsesKey trapping (.pacia 0#5 1#5) .ia ∧ trapping.enabled .ia = true) ∧
    (UsesKey { trapping with pstate := { trapping.pstate with el := .el1 } } .eretab .ib ∧
      { trapping with pstate := { trapping.pstate with el := .el1 } }.trapPAC = some .el2) ∧
    UsesKey trapping (.ldraaPre 0#5 1#5 8) .da :=
  ⟨by decide +kernel, ⟨.inl ⟨_, _, .inl rfl⟩, by decide +kernel⟩,
    ⟨.inr (.inl ⟨rfl, by decide⟩), by decide +kernel⟩,
    .inr (.inr ⟨_, rfl, rfl, fun h => absurd h.2.1 (by decide)⟩)⟩

end Sys2Proof.Tests
end

section
/-! Family 10_state.md, what every step leaves unchanged: the frame of each way an instruction can end, and from
it the statements about keys, controls, memory, PSTATE and the stack pointers (O11, O13, O15). -/

namespace Sys2Proof.Machine

open Sys2Proof

/-! ## The frame of each ending -/

/-- An instruction that ends changes no key, control or configuration and no byte of memory. -/
theorem ended_keeps (s : State) (x : Vector Word 31) (sps : StackPointers) (next : Word) (pacm : Bool) :
    ControlKept s (s.ended x sps next pacm) ∧ MemoryKept s (s.ended x sps next pacm) :=
  ⟨⟨rfl, rfl, rfl, rfl, rfl, rfl, rfl, rfl, rfl, rfl⟩, fun _ => rfl⟩

/-- An exception return changes no key, control or configuration and no byte of memory. -/
theorem exceptionReturn_keeps (s : State) (target : Word) (saved : ProcState) :
    ControlKept s (s.exceptionReturn target saved) ∧ MemoryKept s (s.exceptionReturn target saved) :=
  ⟨⟨rfl, rfl, rfl, rfl, rfl, rfl, rfl, rfl, rfl, rfl⟩, fun _ => rfl⟩

/-- Whichever way an instruction ends, the keys, controls, configuration and memory are kept. -/
theorem Ending.keeps {i : Instr} {s t : State} (h : Ending i s t) : ControlKept s t ∧ MemoryKept s t := by
  cases h with
  | exception r _ next =>
    subst next
    exact (takeException_keeps s r).2.2
  | completed x sps pc pacm _ _ next =>
    subst next
    exact ended_keeps s x sps pc pacm
  | exceptionReturn l pc _ _ next =>
    subst next
    exact exceptionReturn_keeps s pc _

/-- Settles O11: a step is an exception of the fetch or of a word of no row, a hint, or an instruction, and each of
them keeps the frame. -/
theorem stepKeepsKeysControlsAndMemory : Obligations.StepKeepsKeysControlsAndMemory := by
  intro s t h
  rcases step_next h with ⟨_, rfl⟩ | rfl | rfl | ⟨i, _, hexec⟩
  · exact (takeException_keeps s _).2.2
  · exact (takeException_keeps s _).2.2
  · have hc := completed_retireAt s (s.pc + 4#64)
    exact ⟨hc.control, hc.memory⟩
  · exact (exec_ending hexec).keeps

/-! ## PSTATE -/

@[simp] theorem ended_pstate (s : State) (x : Vector Word 31) (sps : StackPointers) (next : Word) (pacm : Bool) :
    (s.ended x sps next pacm).pstate = { s.pstate with pacm := pacm } := rfl

/-- Entering a level keeps the condition flags (R25). -/
@[simp] theorem entering_nzcv (p : ProcState) (target : CtlLevel) : (p.entering target).nzcv = p.nzcv := rfl

/-- Settles O13, by the three ways an instruction can end. -/
theorem pstateChangesOnlyByExceptionOrReturn : Obligations.PstateChangesOnlyByExceptionOrReturn := by
  intro i s t h hnotA hnotB
  cases exec_ending h with
  | exception r _ next =>
    subst next
    exact ⟨entering_nzcv s.pstate _, .inl ⟨r, rfl⟩⟩
  | completed x sps pc pacm _ _ next =>
    subst next
    exact ⟨rfl, .inr ⟨pacm, ended_pstate s x sps pc pacm⟩⟩
  | exceptionReturn _ _ _ instr _ => exact absurd instr (not_or.mpr ⟨hnotA, hnotB⟩)

/-! ## The stack pointers -/

@[simp] theorem ended_sps (s : State) (x : Vector Word 31) (sps : StackPointers) (next : Word) (pacm : Bool) :
    (s.ended x sps next pacm).sps = sps := rfl

@[simp] theorem xsp_31 (s : State) : s.xsp 31#5 = s.sp := if_pos rfl

theorem xsp_of_ne {r : RegNum} (s : State) (h : r ≠ 31#5) : s.xsp r = s.xzr r := if_neg h

/-- Without PSTATE.SPSel the current stack pointer is SP_EL0. -/
theorem sp_of_spSel_false {s : State} (h : s.pstate.spSel = false) : s.sp = s.sps.el0 := by
  simp [State.sp, ProcState.spLevel, h, StackPointers.get]

/-- With PSTATE.SPSel the current stack pointer is that of the current level. -/
theorem sp_of_spSel_true {s : State} (h : s.pstate.spSel = true) : s.sp = s.sps.get s.pstate.el := by
  simp [State.sp, ProcState.spLevel, h]

/-- Settles O15: the reading of number 31 by the two values of PSTATE.SPSel, the writing by the three ways an
instruction can end, of which only a completed pre-indexed load with base number 31 has another stack pointer. -/
theorem stackPointerWrittenOnlyByLoadWriteback : Obligations.StackPointerWrittenOnlyByLoadWriteback := by
  refine ⟨fun s => ⟨xsp_31 s, fun r => xsp_of_ne s, sp_of_spSel_false, fun hsel => ?_⟩, ?_⟩
  · rw [sp_of_spSel_true hsel]
    cases s.pstate.el <;> rfl
  · intro i s t h hchanged
    cases exec_ending h with
    | exception r _ next => exact absurd (next ▸ takeException_sps s r) hchanged
    | completed x sps pc pacm stack _ next =>
      have hsps : t.sps = sps := next ▸ ended_sps s x sps pc pacm
      rcases stack with hsame | ⟨rt, offset, v, hload, hset⟩
      · exact absurd (hsps.trans hsame) hchanged
      · exact ⟨rt, offset, v, hload, hsps.trans hset⟩
    | exceptionReturn l pc _ _ next => exact absurd (next ▸ exceptionReturn_sps s pc _) hchanged

end Sys2Proof.Machine
end

section
/-! Family 10_state.md, the state after reset meets the invariant (O9). -/

namespace Sys2Proof.Machine

open Sys2Proof

@[simp] theorem get_all {α : Type} (a : α) (l : CtlLevel) : (PerLevel.all a).get l = a := by
  cases l <;> rfl

/-- Every saved PSTATE is zero after reset (log 2). -/
theorem reset_spsr (l : CtlLevel) : State.reset.spsr.get l = ProcState.zero := get_all _ l

/-- Settles O9: the PE is at EL3, which Config.initial has, every saved level is EL0, PSTATE.PACM is 0 and memory
lists nothing. -/
theorem resetMeetsInvariant : Obligations.ResetMeetsInvariant where
  memoryCanonical := rfl
  levelPresent := rfl
  savedPresent := fun l => by rw [reset_spsr]; rfl
  savedNotAbove := fun l => by rw [reset_spsr]; exact Nat.zero_le _
  pacmOnlyEnabled := fun hpacm => absurd hpacm Bool.false_ne_true

end Sys2Proof.Machine
end

section
/-! Family 10_state.md, the identification fields (O22): a field laid in a word is read back whole and a field laid
elsewhere does not disturb it; which fields are nonzero, and the value of the implemented one. -/

namespace Sys2Proof.Machine

open Sys2Proof

/-! ## Laying a field in a word -/

/-- putField takes the bits of its field from the value and the others from the word. -/
theorem getLsbD_putField {n : Nat} (w : Word) (lo : Nat) (v : BitVec n) (i : Nat) (hi : i < 64) :
    (putField w lo v).getLsbD i = if lo ≤ i ∧ i < lo + n then v.getLsbD (i - lo) else w.getLsbD i := by
  simp only [putField, BitVec.getLsbD_or, BitVec.getLsbD_and, BitVec.getLsbD_not, BitVec.getLsbD_shiftLeft,
    BitVec.getLsbD_setWidth, BitVec.getLsbD_allOnes]
  have hsub : i - lo < 64 := by omega
  by_cases hlo : lo ≤ i
  · by_cases hn : i < lo + n
    · have hin : i - lo < n := by omega
      simp [hi, hsub, hlo, hn, hin, Nat.not_lt.mpr hlo]
    · have hout : n ≤ i - lo := by omega
      simp [hi, hlo, hn, BitVec.getLsbD_of_ge v _ hout, Nat.not_lt.mpr hout]
  · simp [hi, hlo, Nat.lt_of_not_le hlo]

/-- The bits of a field read back as the value laid there. -/
theorem extractLsb'_putField_same {n : Nat} (w : Word) (lo : Nat) (v : BitVec n) (h : lo + n ≤ 64) :
    (putField w lo v).extractLsb' lo n = v := by
  refine BitVec.eq_of_getLsbD_eq fun i hi => ?_
  rw [BitVec.getLsbD_extractLsb', getLsbD_putField _ _ _ _ (by omega), if_pos (by omega)]
  simp [hi]

/-- A field laid in other bits does not change what is read. -/
theorem extractLsb'_putField_other {n m : Nat} (w : Word) (lo lo' : Nat) (v : BitVec n) (h : lo' + m ≤ 64)
    (hdisjoint : lo' + m ≤ lo ∨ lo + n ≤ lo') :
    (putField w lo v).extractLsb' lo' m = w.extractLsb' lo' m := by
  refine BitVec.eq_of_getLsbD_eq fun i hi => ?_
  rw [BitVec.getLsbD_extractLsb', BitVec.getLsbD_extractLsb', getLsbD_putField _ _ _ _ (by omega),
    if_neg (by omega)]

/-- Each field of ID_AA64ISAR1_EL1 stands at its bits (R40, log 38). -/
theorem idAa64isar1_write_fields (r : IdAa64isar1) (w : Word) :
    (r.write w).extractLsb' 4 4 = r.apa ∧ (r.write w).extractLsb' 8 4 = r.api ∧
      (r.write w).extractLsb' 24 4 = r.gpa ∧ (r.write w).extractLsb' 28 4 = r.gpi := by
  simp [IdAa64isar1.write, extractLsb'_putField_same, extractLsb'_putField_other]

/-- Each field of ID_AA64ISAR2_EL1 stands at its bits (R40, log 38). -/
theorem idAa64isar2_write_fields (r : IdAa64isar2) (w : Word) :
    (r.write w).extractLsb' 8 4 = r.gpa3 ∧ (r.write w).extractLsb' 12 4 = r.apa3 := by
  simp [IdAa64isar2.write, extractLsb'_putField_same, extractLsb'_putField_other]

/-! ## Which fields are nonzero, and their values -/

/-- The field of an algorithm holds a nonzero value exactly where that algorithm is the implemented one (R34). -/
theorem fieldIf_ne_zero_iff {a b : PacAlgorithm} {v : BitVec 4} (hv : v ≠ 0#4) :
    fieldIf (a == b) v ≠ 0#4 ↔ a = b := by
  by_cases hab : a = b <;> simp [fieldIf, hab, hv]

theorem fieldIf_of_eq {a b : PacAlgorithm} (h : a = b) (v : BitVec 4) : fieldIf (a == b) v = v := by
  simp [fieldIf, h]

/-- Every value of an implemented algorithm's field is nonzero, the unstated ones of log 35 included (R34). -/
theorem featureValue_ne_zero (cfg : Config) : featureValue cfg ≠ 0#4 := by
  unfold featureValue
  split
  -- the last alternative is FEAT_PAuth_LR on a lower rung, where 0 is replaced (log 35)
  case h_7 =>
    split
    · decide
    · assumption
  all_goals decide

/-- Settles O22: the nonzero fields, the stated values, the generic value and the bits of each field. -/
theorem identificationFieldsNameTheAlgorithm : Obligations.IdentificationFieldsNameTheAlgorithm := by
  intro s
  have hfeature := featureValue_ne_zero s.cfg
  have hgeneric : (0b0001#4 : BitVec 4) ≠ 0#4 := by decide
  refine ⟨⟨fieldIf_ne_zero_iff hfeature, fieldIf_ne_zero_iff hfeature, fieldIf_ne_zero_iff hfeature,
    fieldIf_ne_zero_iff hgeneric, fieldIf_ne_zero_iff hgeneric, fieldIf_ne_zero_iff hgeneric⟩,
    fun v hv => ?_, ⟨fun h => fieldIf_of_eq h _, fun h => fieldIf_of_eq h _, fun h => fieldIf_of_eq h _⟩,
    fun w => ?_⟩
  · have hvalue : featureValue s.cfg = v := by
      unfold featureValue
      rcases hv with ⟨hlr, rfl⟩ | ⟨hlr, hlevel, rfl⟩
      · rw [hlr]
        cases s.cfg.level <;> rfl
      · rw [hlr, hlevel]
    subst hvalue
    exact ⟨fun h => fieldIf_of_eq h _, fun h => fieldIf_of_eq h _, fun h => fieldIf_of_eq h _⟩
  · obtain ⟨hapa, hapi, hgpa, hgpi⟩ := idAa64isar1_write_fields s.idAa64isar1 w
    obtain ⟨hgpa3, hapa3⟩ := idAa64isar2_write_fields s.idAa64isar2 w
    exact ⟨hapa, hapi, hgpa, hgpi, hgpa3, hapa3⟩

end Sys2Proof.Machine
end

section
/-! Family 10_state.md, where the effects of PACM are enabled (O56): one equation of `pacmEnabled` per level, and
PACM as a NOP where they are not. -/

namespace Sys2Proof.Machine

open Sys2Proof

/-- Without FEAT_PAuth_LR the effects of PACM are enabled nowhere (R24). -/
theorem pacmEnabled_of_not_pauthLR {s : State} (h : s.cfg.pauthLR = false) (el : EL) :
    s.pacmEnabled el = false := by
  simp [State.pacmEnabled, h]

/-- On a trivial implementation the effects of PACM are enabled nowhere (R223). -/
theorem pacmEnabled_of_trivial {s : State} (h : s.cfg.pacmTrivial = true) (el : EL) :
    s.pacmEnabled el = false := by
  simp [State.pacmEnabled, h]

section FullImplementation

variable {s : State} (hlr : s.cfg.pauthLR = true) (hfull : s.cfg.pacmTrivial = false)
include hlr hfull

theorem pacmEnabled_el3 : s.pacmEnabled .el3 = s.sctlr2.el3.enPACM := by
  simp [State.pacmEnabled, hlr, hfull]

theorem pacmEnabled_el2 : s.pacmEnabled .el2 = s.sctlr2.el2.enPACM := by
  simp [State.pacmEnabled, hlr, hfull]

theorem pacmEnabled_el1 :
    s.pacmEnabled .el1 = ((!s.el2Gates || s.hcrxEl2.pacmEn) && s.sctlr2.el1.enPACM) := by
  simp [State.pacmEnabled, hlr, hfull]

theorem pacmEnabled_el0 :
    s.pacmEnabled .el0 = ((!s.el2Gates || s.hcrxEl2.pacmEn) && (s.sctlr2.get (s.ctlEL .el0)).enPACM0) := by
  simp [State.pacmEnabled, hlr, hfull]

end FullImplementation

theorem el2Gates_iff (s : State) : s.el2Gates = true ↔ s.cfg.el2On = true ∧ s.hostMode = false := by
  simp [State.el2Gates]

/-- Where the effects of PACM are not enabled, PACM does what NOP does (R89, R220). -/
theorem exec_pacm_eq_nop {s : State} (h : s.pacmEnabled s.pstate.el = false) : exec .pacm s = exec .nop s := by
  change execPacm s = execNop s
  unfold execPacm
  rw [h]
  rfl

/-- Settles O56, by the feature, the implementation and the gate of HCRX_EL2. -/
theorem pacmEnableControls : Obligations.PacmEnableControls := by
  intro s
  refine ⟨fun hlr => ?_, fun hlr => ⟨pacmEnabled_of_trivial, fun hfull => ?_⟩, el2Gates_iff s⟩
  · have hnowhere := pacmEnabled_of_not_pauthLR hlr
    exact ⟨hnowhere, exec_pacm_eq_nop (hnowhere _)⟩
  · refine ⟨pacmEnabled_el3 hlr hfull, pacmEnabled_el2 hlr hfull, fun hgates hclosed => ?_, fun hopen => ?_⟩
    · rw [pacmEnabled_el1 hlr hfull, pacmEnabled_el0 hlr hfull, hgates, hclosed]
      exact ⟨rfl, rfl⟩
    · have hpass : (!s.el2Gates || s.hcrxEl2.pacmEn) = true := by simpa using hopen
      rw [pacmEnabled_el1 hlr hfull, pacmEnabled_el0 hlr hfull, hpass]
      exact ⟨rfl, rfl⟩

end Sys2Proof.Machine
end

section
/-! Family 20_memory.md, what a word decodes to: the rows of the encoding table are disjoint, so a word that matches a
row decodes to that row's instruction, and the word of a well-formed instruction decodes to it. -/

namespace Sys2Proof.Laws.EncodesItsRow

open Sys2Proof

/-- The word that encode writes for an instruction matches the instruction's own row of the table. -/
theorem every (i : Instr) : Statement i :=
  match i with
  | .pacia rd rn => pacia rd rn
  | .pacib rd rn => pacib rd rn
  | .pacda rd rn => pacda rd rn
  | .pacdb rd rn => pacdb rd rn
  | .paciza rd => paciza rd
  | .pacizb rd => pacizb rd
  | .pacdza rd => pacdza rd
  | .pacdzb rd => pacdzb rd
  | .pacia1716 => pacia1716
  | .pacib1716 => pacib1716
  | .paciaz => paciaz
  | .paciasp => paciasp
  | .pacibz => pacibz
  | .pacibsp => pacibsp
  | .paciasppc => paciasppc
  | .autia rd rn => autia rd rn
  | .autib rd rn => autib rd rn
  | .autda rd rn => autda rd rn
  | .autdb rd rn => autdb rd rn
  | .autiza rd => autiza rd
  | .autizb rd => autizb rd
  | .autdza rd => autdza rd
  | .autdzb rd => autdzb rd
  | .autia1716 => autia1716
  | .autib1716 => autib1716
  | .autiaz => autiaz
  | .autiasp => autiasp
  | .autibz => autibz
  | .autibsp => autibsp
  | .xpaci rd => xpaci rd
  | .xpacd rd => xpacd rd
  | .xpaclri => xpaclri
  | .pacga rd rn rm => pacga rd rn rm
  | .braa rn rm => braa rn rm
  | .brab rn rm => brab rn rm
  | .braaz rn => braaz rn
  | .brabz rn => brabz rn
  | .blraa rn rm => blraa rn rm
  | .blrab rn rm => blrab rn rm
  | .blraaz rn => blraaz rn
  | .blrabz rn => blrabz rn
  | .retaa => retaa
  | .retab => retab
  | .ret rn => ret rn
  | .eretaa => eretaa
  | .eretab => eretab
  | .ldraaOffset rt rn offset => ldraaOffset rt rn offset
  | .ldraaPre rt rn offset => ldraaPre rt rn offset
  | .ldrabOffset rt rn offset => ldrabOffset rt rn offset
  | .ldrabPre rt rn offset => ldrabPre rt rn offset
  | .pacm => pacm
  | .nop => nop

end Sys2Proof.Laws.EncodesItsRow

namespace Sys2Proof

/-- Two rows ask for different values in a bit that both of their masks look at. -/
def EncodingRow.Clash (a b : EncodingRow) : Prop := (a.pattern ^^^ b.pattern) &&& (a.mask &&& b.mask) ≠ 0#32

theorem EncodingRow.matches_iff (r : EncodingRow) (w : InstrWord) : r.matches w = true ↔ w &&& r.mask = r.pattern := by
  simp [EncodingRow.matches]

/-- No word matches two rows that clash. -/
theorem EncodingRow.Clash.not_both {a b : EncodingRow} (h : a.Clash b) (w : InstrWord)
    (ha : w &&& a.mask = a.pattern) (hb : w &&& b.mask = b.pattern) : False := by
  refine h (BitVec.eq_of_getLsbD_eq fun i _ => ?_)
  rw [← ha, ← hb]
  simp only [BitVec.getLsbD_and, BitVec.getLsbD_xor, BitVec.getLsbD_zero]
  cases w.getLsbD i <;> cases a.mask.getLsbD i <;> simp

/-- Every two rows of the table clash: a finite check of their masks and patterns (R88). -/
theorem encodingRows_clash : encodingRows.Pairwise EncodingRow.Clash := by
  unfold EncodingRow.Clash
  decide +kernel

/-- A word that matches a row decodes to that row's instruction: the row that the search finds is that row (R88). -/
theorem decodeWord_of_matches {r : EncodingRow} {w : InstrWord} (hr : r ∈ encodingRows)
    (hm : r.matches w = true) : decodeWord w = some (r.build w) := by
  have hsymm : Std.Symm EncodingRow.Clash := ⟨fun a b h => by
    unfold EncodingRow.Clash at h ⊢
    rwa [BitVec.xor_comm, BitVec.and_comm b.mask]⟩
  cases hfound : encodingRows.find? (fun r => r.matches w) with
  | none => exact absurd hm (List.find?_eq_none.mp hfound r hr)
  | some found =>
    have hfoundMatches : found.matches w = true := List.find?_some (p := fun r : EncodingRow => r.matches w) hfound
    have hsame : found = r := by
      by_contra hne
      exact (encodingRows_clash.forall (List.mem_of_find?_eq_some hfound) hr hne).not_both w
        ((found.matches_iff w).mp hfoundMatches) ((r.matches_iff w).mp hm)
    rw [decodeWord, hfound, hsame]
    rfl

/-- The word of a well-formed instruction decodes to the instruction (R88). -/
theorem decodeWord_encode {i : Instr} (h : i.wellFormed = true) : decodeWord (encode i) = some i := by
  obtain ⟨r, hr, hm, hbuild⟩ := Laws.EncodesItsRow.every i h
  rw [decodeWord_of_matches hr hm, hbuild]

/-- The four bytes of a word make the word again (R63, R80). -/
theorem wordOfBytes_bytes (w : InstrWord) :
    wordOfBytes (w.extractLsb' 0 8) (w.extractLsb' 8 8) (w.extractLsb' 16 8) (w.extractLsb' 24 8) = w := by
  have hupper : w.extractLsb' 24 8 ++ w.extractLsb' 16 8 = w.extractLsb' 16 16 :=
    BitVec.extractLsb'_append_extractLsb'_eq_extractLsb' rfl
  have hmiddle : w.extractLsb' 16 16 ++ w.extractLsb' 8 8 = w.extractLsb' 8 24 :=
    BitVec.extractLsb'_append_extractLsb'_eq_extractLsb' rfl
  have hlower : w.extractLsb' 8 24 ++ w.extractLsb' 0 8 = w.extractLsb' 0 32 :=
    BitVec.extractLsb'_append_extractLsb'_eq_extractLsb' rfl
  rw [wordOfBytes, hupper, hmiddle, hlower, BitVec.extractLsb'_eq_self]

/-- Four bytes decode to an instruction exactly where the word they make does (R80). -/
theorem decode_four_iff {b0 b1 b2 b3 : Byte} {i : Instr} :
    decode [b0, b1, b2, b3] = .ok (i, []) ↔ decodeWord (wordOfBytes b0 b1 b2 b3) = some i := by
  simp only [decode]
  cases decodeWord (wordOfBytes b0 b1 b2 b3) <;> simp

end Sys2Proof
end

section
/-! Family 20_memory.md, the fetch: what a step does at a canonical, aligned pc, at a misaligned one and at a
non-canonical one (O5, O6, O7). -/

namespace Sys2Proof.Machine

open Sys2Proof

/-! ## What a fetch gives -/

theorem fetch_of_nonCanonical {s : State} (h : s.isCanonical s.pc true = false) :
    s.fetch = .raised (.fetchFault s.pc) := by
  simp [State.fetch, h]

theorem fetch_of_misaligned {s : State} (hcanonical : s.isCanonical s.pc true = true)
    (hmisaligned : s.pc.extractLsb' 0 2 ≠ 0#2) : s.fetch = .stopped (.misalignedFetch s.pc) := by
  simp [State.fetch, hcanonical, hmisaligned]

theorem step_of_fetch_raised {s : State} {r : Raise} (h : s.fetch = .raised r) :
    step s = .next (s.takeException r) := by
  rw [step, h]

theorem step_of_fetch_stopped {s : State} {f : Fault} (h : s.fetch = .stopped f) : step s = .fault f := by
  rw [step, h]

theorem execWord_of_decodeWord {w : InstrWord} {i : Instr} (h : decodeWord w = some i) (s : State) :
    execWord w s = exec i s := by
  rw [execWord, h]

/-! ## The step -/

/-- FAR of the target level holds the pc whose fetch faulted (R246, R254). -/
theorem takeException_fetchFault_far (s : State) (addr : Word) :
    (s.takeException (.fetchFault addr)).far.get (s.exceptionTarget (.fetchFault addr)) = addr :=
  get_set_same s.far _ addr

/-- ELR of the target level holds the address of the instruction that raised (R254). -/
theorem takeException_elr_target (s : State) (r : Raise) :
    (s.takeException r).elr.get (s.exceptionTarget r) = s.pc :=
  get_set_same s.elr _ s.pc

/-- Settles O7: the fetch raises VAFault at a non-canonical pc and stops at a misaligned canonical one. -/
theorem fetchFaultsOutsideCanonicalPc : Obligations.FetchFaultsOutsideCanonicalPc := by
  intro s
  refine ⟨fun hcanonical => ?_, fun hcanonical hmisaligned => ?_⟩
  · exact ⟨_, step_of_fetch_raised (fetch_of_nonCanonical hcanonical), rfl,
      takeException_fetchFault_far s s.pc, takeException_elr_target s _⟩
  · exact step_of_fetch_stopped (fetch_of_misaligned hcanonical hmisaligned)

/-- Settles O5: the four bytes decode where their word does, and the step executes that word. -/
theorem stepRunsTheDecodedInstruction : Obligations.StepRunsTheDecodedInstruction := by
  intro s i hcanonical haligned hdecode
  have hbytes := readBytes_four s.mem (s.place s.pc true)
  rw [hbytes, decode_four_iff] at hdecode
  rw [step_fetched hcanonical haligned hbytes, execWord_of_decodeWord hdecode]

/-! ## An instruction's word at the pc -/

/-- The four bytes from a place on are those of a word: byte j of it, bits [8j+7:8j], lies at the place plus j (R63). -/
theorem readBytes_eq_bytesOfWord_iff {m : Memory} {a : Word} {w : InstrWord} :
    Memory.readBytes m a 4 = bytesOfWord w ↔
      ∀ j, j < 4 → Memory.read m (a + BitVec.ofNat 64 j).toNat = w.extractLsb' (8 * j) 8 := by
  rw [readBytes_four, bytesOfWord]
  constructor
  · intro h j hj
    injection h with h0 h
    injection h with h1 h
    injection h with h2 h
    injection h with h3
    interval_cases j
    · rwa [BitVec.add_zero]
    · exact h1
    · exact h2
    · exact h3
  · intro h
    have h0 := h 0 (by decide)
    rw [BitVec.add_zero] at h0
    have h1 := h 1 (by decide)
    have h2 := h 2 (by decide)
    have h3 := h 3 (by decide)
    rw [h0, h1, h2, h3]

/-- A step at a canonical, aligned pc executes the word whose bytes lie there (R72). -/
theorem step_of_word {s : State} {w : InstrWord} (hcanonical : s.isCanonical s.pc true = true)
    (haligned : s.pc.extractLsb' 0 2 = 0#2) (hbytes : Memory.readBytes s.mem (s.place s.pc true) 4 = bytesOfWord w) :
    step s = execWord w s := by
  rw [step_fetched hcanonical haligned hbytes, wordOfBytes_bytes]

/-- withFetchWord writes the word's four bytes where the next step fetches. -/
theorem withFetchWord_mem (s : State) (w : InstrWord) :
    (s.withFetchWord 32 w.toNat).mem = Memory.writeBytes s.mem (s.place s.pc true) (bytesOfWord w) := by
  have hword : BitVec.ofNat 32 (w.toNat % 2 ^ 32) = w := by
    rw [Nat.mod_eq_of_lt w.isLt, BitVec.ofNat_toNat, BitVec.setWidth_eq]
  rw [State.withFetchWord, hword]

/-- In a memory in its canonical form, the word that withFetchWord places is the word the next step fetches. -/
theorem readBytes_withFetchWord {s : State} (w : InstrWord) (hwf : Memory.wf s.mem = true) :
    Memory.readBytes (s.withFetchWord 32 w.toNat).mem (s.place s.pc true) 4 = bytesOfWord w := by
  rw [withFetchWord_mem]
  exact Memory.readBytes_writeBytes4 _ _ _ _ _ hwf

/-- Settles O6: the word of the instruction decodes to it, and the step executes the word whose bytes lie at the pc,
which withFetchWord writes there. -/
theorem placedInstructionRunsNext : Obligations.PlacedInstructionRunsNext := by
  intro s i hwellFormed hcanonical haligned
  have hdecode := decodeWord_encode hwellFormed
  refine ⟨fun hplaced => ?_, fun hwf => ?_⟩
  · rw [step_of_word hcanonical haligned (readBytes_eq_bytesOfWord_iff.mpr hplaced), execWord_of_decodeWord hdecode]
  · have hbytes := readBytes_withFetchWord (encode i) hwf
    refine ⟨readBytes_eq_bytesOfWord_iff.mp hbytes, ?_⟩
    -- placing a word changes memory only, so that the pc and its place are those of `s`
    have hstep : step (s.withFetchWord 32 (encode i).toNat) = execWord (encode i) _ :=
      step_of_word hcanonical haligned hbytes
    rw [hstep, execWord_of_decodeWord hdecode]

end Sys2Proof.Machine
end

section
/-! Family 20_memory.md, canonical addresses: the test bit by bit (O24), the pointer of a strip (O36) and the pointer of a
failed check (O33). Up to bottom_PAC_bit 52 the positions of the extension bits are the bits that the test looks at. -/

namespace Sys2Proof.Machine

open Sys2Proof

/-! ## The canonical test -/

/-- An address is canonical when each bit that the test looks at equals bit 55, and is 0 in a regime with a single VA
range (R73). -/
theorem isCanonical_iff (s : State) (a : Word) (isInstr : Bool) :
    s.isCanonical a isInstr = true ↔ ∀ i, i < 64 → (s.checkedBits a isInstr).getLsbD i = true →
      a.getLsbD i = a.getLsbD 55 ∧ (s.singleRange = true → a.getLsbD i = false) := by
  refine ⟨fun h i hi hc => isCanonical_bits h hi hc, fun h => ?_⟩
  have hequal : a &&& s.checkedBits a isInstr = replicateBit (a.getLsbD 55) &&& s.checkedBits a isInstr := by
    refine (and_eq_and_iff _ _ _).mpr fun i hi hc => ?_
    rw [(h i hi hc).1, getLsbD_replicateBit, decide_eq_true hi, Bool.and_true]
  have hzero : s.singleRange = true → a &&& s.checkedBits a isInstr = 0#64 := fun hsingle =>
    (and_eq_zero_iff _ _).mpr fun i hi hc => (h i hi hc).2 hsingle
  simp only [State.isCanonical, Bool.and_eq_true, Bool.or_eq_true, decide_eq_true_eq, Bool.not_eq_true']
  refine ⟨hequal, ?_⟩
  cases hsingle : s.singleRange
  · exact .inl rfl
  · exact .inr (hzero hsingle)

/-- Two checked bits of a canonical address are equal. -/
theorem isCanonical_bits_eq {s : State} {a : Word} {isInstr : Bool} (h : s.isCanonical a isInstr = true) {i j : Nat}
    (hi : i < 64) (hj : j < 64) (hci : (s.checkedBits a isInstr).getLsbD i = true)
    (hcj : (s.checkedBits a isInstr).getLsbD j = true) : a.getLsbD i = a.getLsbD j :=
  (isCanonical_bits h hi hci).1.trans (isCanonical_bits h hj hcj).1.symm

/-- The bits that the test looks at, by the tagging of the range (R73). -/
theorem checkedBits_iff (s : State) (a : Word) (isInstr : Bool) {i : Nat} (hi : i < 64) :
    (s.checkedBits a isInstr).getLsbD i = true ↔
      if s.tagUsed (s.rangeOf a) isInstr = true then s.bottomBit (s.rangeOf a) ≤ i ∧ i ≤ 55
      else if s.latUsed (s.rangeOf a) = true then 60 ≤ i ∨ (s.bottomBit (s.rangeOf a) ≤ i ∧ i ≤ 55)
      else s.bottomBit (s.rangeOf a) ≤ i := by
  rw [getLsbD_checkedBits _ _ _ _ hi]
  split
  · rw [decide_eq_true_eq]
  · split
    · rw [Bool.or_eq_true, decide_eq_true_eq, decide_eq_true_eq]
    · rw [decide_eq_true_eq]

/-- Settles O24: the test looks at the checked bits, and those are the positions of R73. -/
theorem canonicalAddressTest : Obligations.CanonicalAddressTest := by
  intro s addr isInstr
  rw [isCanonical_iff]
  exact forall₂_congr fun i hi => imp_congr_left (checkedBits_iff s addr isInstr hi)

/-! ## Extension bits and checked bits -/

/-- Two words with the same bit 55 are of the same range. -/
theorem rangeOf_congr {s : State} {v w : Word} (h : v.getLsbD 55 = w.getLsbD 55) : s.rangeOf v = s.rangeOf w := by
  rw [State.rangeOf, State.rangeOf, h]

/-- Up to bottom_PAC_bit 52 an operation that does not insert extends with bit 55. -/
theorem sel_false_of_le {s : State} {p : Word} {isInstr : Bool} (h : s.bottomBit (s.rangeOf p) ≤ 52) :
    (s.pacContext p isInstr false).sel = p.getLsbD 55 := by
  rw [sel_of_le (by rwa [bottom_false]), selectBit_false]

/-- PACFieldMask up to bottom_PAC_bit 52: the bits from bottom_PAC_bit to 54, and above bit 55 those that no tag holds
(R104 to R106). -/
theorem pacFieldMask_iff_of_le {b i : Nat} (hb : b ≤ 52) (hi : i < 64) (tbi lat single : Bool) :
    (pacFieldMask b tbi lat single).getLsbD i = true ↔
      (b ≤ i ∧ i ≤ 54) ∨ (tbi = false ∧ if lat = true then 60 ≤ i else 56 ≤ i) := by
  have hwide : (decide (52 < b) && single) = false := by simp; omega
  have hlow : (sliceMask 54 b).getLsbD i = true ↔ b ≤ i ∧ i ≤ 54 := by simp [getLsbD_sliceMask _ _ i]
  have hlat : (sliceMask 63 60).getLsbD i = true ↔ 60 ≤ i := by
    rw [getLsbD_sliceMask _ _ i (by decide), decide_eq_true_eq]; omega
  have htop : (sliceMask 63 56).getLsbD i = true ↔ 56 ≤ i := by
    rw [getLsbD_sliceMask _ _ i (by decide), decide_eq_true_eq]; omega
  simp only [pacFieldMask, hwide, Bool.false_eq_true, if_false]
  cases tbi with
  | true => simpa using hlow
  | false =>
    cases lat with
    | true =>
      rw [if_neg Bool.false_ne_true, if_pos rfl, BitVec.getLsbD_or, Bool.or_eq_true, hlow, hlat]
      simp [or_comm]
    | false =>
      rw [if_neg Bool.false_ne_true, if_neg Bool.false_ne_true, BitVec.getLsbD_or, Bool.or_eq_true, hlow, htop]
      simp [or_comm]

/-- Up to bottom_PAC_bit 52 the positions of the extension bits are the bits that the canonical test looks at. -/
theorem ext_eq_checkedBits {s : State} {p : Word} {isInstr : Bool} (h : s.bottomBit (s.rangeOf p) ≤ 52) :
    (s.pacContext p isInstr false).ext = s.checkedBits p isInstr := by
  have hbottom := bottom_false s p isInstr
  have htag : (s.pacContext p isInstr false).tbi = s.tagUsed (s.rangeOf p) isInstr := rfl
  refine eq_of_bits fun i hi => Bool.eq_iff_iff.mpr ?_
  rw [getLsbD_ext (by omega) i hi, Bool.or_eq_true, decide_eq_true_eq, field_of_le (by omega),
    hbottom, htag, pacFieldMask_iff_of_le h hi, checkedBits_iff s p isInstr hi]
  cases s.tagUsed (s.rangeOf p) isInstr with
  | true =>
    simp only [if_true, Bool.true_eq_false, false_and, or_false]
    omega
  | false =>
    simp only [Bool.false_eq_true, if_false, true_and]
    split <;> omega

/-- Up to bottom_PAC_bit 52 bit 55 is not in the PAC field. -/
theorem field_bit55_of_le {s : State} {p : Word} {isInstr : Bool} (h : s.bottomBit (s.rangeOf p) ≤ 52) :
    (s.pacContext p isInstr false).field.getLsbD 55 = false := by
  have hbottom := bottom_false s p isInstr
  rw [field_of_le (by omega), hbottom, Bool.eq_false_iff, ne_eq, pacFieldMask_iff_of_le h (by decide)]
  split <;> omega

/-! ## Strip -/

/-- Up to bottom_PAC_bit 52 a strip copies bit 55 to every bit that the canonical test looks at (R121). -/
theorem getLsbD_strip_of_le {s : State} {p : Word} {isInstr : Bool} (h : s.bottomBit (s.rangeOf p) ≤ 52) {i : Nat}
    (hi : i < 64) : (s.strip p isInstr).getLsbD i =
      if (s.checkedBits p isInstr).getLsbD i then p.getLsbD 55 else p.getLsbD i := by
  rw [State.strip, getLsbD_extend _ _ _ hi, ext_eq_checkedBits h, sel_false_of_le h]

theorem strip_bit55_of_le {s : State} {p : Word} {isInstr : Bool} (h : s.bottomBit (s.rangeOf p) ≤ 52) :
    (s.strip p isInstr).getLsbD 55 = p.getLsbD 55 := by
  rw [getLsbD_strip_of_le h (by decide), ite_self]

/-- Settles O36: a strip writes the checked bits and no others, and keeps bit 55. -/
theorem stripGivesCanonicalAddress : Obligations.StripGivesCanonicalAddress := by
  intro s p isInstr hb
  have h55 : (s.strip p isInstr).getLsbD 55 = p.getLsbD 55 := strip_bit55_of_le hb
  have hrange : s.rangeOf (s.strip p isInstr) = s.rangeOf p := rangeOf_congr h55
  have hchecked : s.checkedBits (s.strip p isInstr) isInstr = s.checkedBits p isInstr := checkedBits_congr hrange
  refine ⟨fun hregime => ?_, fun hcanonical => ?_, ?_⟩
  · refine (isCanonical_iff _ _ _).mpr fun i hi hc => ?_
    rw [hchecked] at hc
    rw [h55, getLsbD_strip_of_le hb hi, if_pos hc]
    refine ⟨rfl, fun hsingle => hregime.resolve_left ?_⟩
    rw [hsingle]
    decide
  · refine eq_of_bits fun i hi => ?_
    rw [getLsbD_strip_of_le hb hi]
    split
    · next hc => exact (isCanonical_bits hcanonical hi hc).1.symm
    · rfl
  · refine eq_of_bits fun i hi => ?_
    rw [getLsbD_strip_of_le (by rwa [hrange]) hi, hchecked, h55, getLsbD_strip_of_le hb hi]
    split <;> rfl

/-! ## A failed check -/

/-- Where there is no PAC field, every PAC is correct. -/
theorem auth_incorrect_field_ne_zero {cfg : Config} {c : PacContext} {pacOf : Word → Word} {keyNumber : Bool}
    {p v : Word} (h : auth cfg c pacOf keyNumber p = .incorrect v) : c.field ≠ 0#64 := by
  intro hfield
  simp only [auth, hfield, BitVec.and_zero, if_true] at h
  split at h <;> cases h

/-- With FEAT_PAuth2 a failed check changes the PAC field only, and leaves a bit of it that is not the selection bit
(R120). -/
theorem auth_incorrect_of_pauth2 {cfg : Config} {c : PacContext} {pacOf : Word → Word} {keyNumber : Bool} {p v : Word}
    (hfeature : cfg.featPAuth2 = true) (h : auth cfg c pacOf keyNumber p = .incorrect v) :
    (∀ i, c.field.getLsbD i = false → v.getLsbD i = p.getLsbD i) ∧
      ∃ i, i < 64 ∧ c.field.getLsbD i = true ∧ v.getLsbD i ≠ c.sel := by
  simp only [auth, hfeature, if_true] at h
  split at h
  · cases h
  · next hwrong =>
    obtain rfl := AuthResult.incorrect.inj h
    refine ⟨fun i hi => by rw [BitVec.getLsbD_xor, BitVec.getLsbD_and, hi, Bool.and_false, Bool.xor_false], ?_⟩
    by_contra hall
    push Not at hall
    refine hwrong ((and_eq_and_iff _ _ _).mpr fun i hi hc => ?_)
    rw [hall i hi hc, getLsbD_replicateBit, decide_eq_true hi, Bool.and_true]

/-- Without FEAT_PAuth2 a failed check gives the extended pointer with the error code (R119). -/
theorem auth_incorrect_of_not_pauth2 {cfg : Config} {c : PacContext} {pacOf : Word → Word} {keyNumber : Bool}
    {p v : Word} (hfeature : cfg.featPAuth2 = false) (h : auth cfg c pacOf keyNumber p = .incorrect v) :
    v = errorCode c keyNumber (c.extend p) := by
  simp only [auth, hfeature, Bool.false_eq_true, if_false] at h
  split at h
  · cases h
  · exact (AuthResult.incorrect.inj h).symm

/-- A pointer whose bit 55 is that of `p` and which has in the PAC field of `p` a bit other than bit 55 is not canonical. -/
theorem nonCanonical_of_field_bit {s : State} {p v : Word} {isInstr : Bool} (h55 : v.getLsbD 55 = p.getLsbD 55)
    {i : Nat} (hi : i < 64) (hfield : (s.pacContext p isInstr false).field.getLsbD i = true)
    (hne : v.getLsbD i ≠ p.getLsbD 55) : s.isCanonical v isInstr = false := by
  by_contra hcanonical
  rw [Bool.not_eq_false] at hcanonical
  have hchecked : (s.checkedBits v isInstr).getLsbD i = true := by
    rw [checkedBits_congr (rangeOf_congr h55)]
    exact field_checked hi hfield
  exact hne ((isCanonical_bits hcanonical hi hchecked).1.trans h55)

/-- Up to bottom_PAC_bit 52 the stripped pointer with the error code is not canonical: the code's two bits differ, and the
canonical test looks at both (R119). -/
theorem errorCode_strip_nonCanonical {s : State} {p : Word} {isInstr : Bool} (h : s.bottomBit (s.rangeOf p) ≤ 52)
    (keyNumber : Bool) :
    s.isCanonical (errorCode (s.pacContext p isInstr false) keyNumber (s.strip p isInstr)) isInstr = false := by
  have htag : (s.pacContext p isInstr false).tbi = s.tagUsed (s.rangeOf p) isInstr := rfl
  have hbit := getLsbD_errorCode (s.pacContext p isInstr false) keyNumber (s.strip p isInstr)
  rw [htag] at hbit
  generalize errorCode (s.pacContext p isInstr false) keyNumber (s.strip p isInstr) = v at hbit
  by_contra hcanonical
  rw [Bool.not_eq_false] at hcanonical
  have h55 : v.getLsbD 55 = p.getLsbD 55 := by
    rw [hbit 55 (by decide), if_neg (by split <;> decide), if_neg (by split <;> decide), strip_bit55_of_le h]
  have hchecked := fun i (hi : i < 64) => checkedBits_iff s v isInstr hi
  rw [rangeOf_congr h55] at hchecked
  suffices keyNumber = !keyNumber by simp at this
  cases htagged : s.tagUsed (s.rangeOf p) isInstr with
  | true =>
    rw [htagged] at hbit hchecked
    have hlooked : ∀ i, 52 ≤ i → i ≤ 55 → (s.checkedBits v isInstr).getLsbD i = true := fun i h52 h55 =>
      (hchecked i (by omega)).mpr (by rw [if_pos rfl]; omega)
    have hequal : v.getLsbD 54 = v.getLsbD 53 := isCanonical_bits_eq hcanonical (by decide) (by decide)
      (hlooked 54 (by decide) (by decide)) (hlooked 53 (by decide) (by decide))
    rwa [hbit 54 (by decide), hbit 53 (by decide)] at hequal
  | false =>
    rw [htagged] at hbit hchecked
    have hlooked : ∀ i, 60 ≤ i → (hi : i < 64) → (s.checkedBits v isInstr).getLsbD i = true := fun i h60 hi =>
      (hchecked i hi).mpr (by rw [if_neg Bool.false_ne_true]; split <;> omega)
    have hequal : v.getLsbD 62 = v.getLsbD 61 := isCanonical_bits_eq hcanonical (by decide) (by decide)
      (hlooked 62 (by decide) (by decide)) (hlooked 61 (by decide) (by decide))
    rwa [hbit 62 (by decide), hbit 61 (by decide)] at hequal

/-- Settles O33: above bottom_PAC_bit 52 by the choice of the open failure value, up to it by the two forms of a failure. -/
theorem failedAuthenticationIsNonCanonical : Obligations.FailedAuthenticationIsNonCanonical := by
  intro s k p v m hcheck
  obtain ⟨q, hauth, rfl⟩ := checkPAC_incorrect.mp hcheck
  rw [bottom_false]
  split
  · next hb =>
    cases hfeature : s.cfg.featPAuth2 with
    | true =>
      obtain ⟨hkept, i, hi, hfield, hne⟩ := auth_incorrect_of_pauth2 hfeature hauth
      rw [sel_false_of_le hb] at hne
      exact nonCanonical_of_field_bit (hkept 55 (field_bit55_of_le hb)) hi hfield hne
    | false =>
      rw [auth_incorrect_of_not_pauth2 hfeature hauth]
      exact errorCode_strip_nonCanonical hb k.number
  · exact openFailure_nonCanonical s p k.isInstr (auth_incorrect_field_ne_zero hauth)

end Sys2Proof.Machine
end

section
/-! Family 20_memory.md, the authenticated loads: the doubleword of an access, its exceptions, and the registers of a
completed load (O52, O54). -/

namespace Sys2Proof.Machine

open Sys2Proof

/-! ## The bytes of an access -/

/-- Byte j of consecutive bytes is the one at the place plus j. -/
theorem getElem?_readBytes (m : Memory) (a : Word) {n j : Nat} (h : j < n) :
    (Memory.readBytes m a n)[j]? = some (Memory.read m (a + BitVec.ofNat 64 j).toNat) := by
  induction n generalizing a j with
  | zero => omega
  | succ n ih =>
    cases j with
    | zero => rw [Memory.readBytes, List.getElem?_cons_zero, BitVec.add_zero]
    | succ j =>
      have hnext : a + 1#64 + BitVec.ofNat 64 j = a + BitVec.ofNat 64 (j + 1) := by
        rw [BitVec.add_assoc, Nat.add_comm j 1, BitVec.ofNat_add]
      rw [Memory.readBytes, List.getElem?_cons_succ, ih (a + 1#64) (by omega), hnext]

/-- Bits [8j+7:8j] of a little-endian number are byte j (R63). -/
theorem testBit_natOfBytesLE {bytes : List Byte} {j : Nat} {b : Byte} (h : bytes[j]? = some b) {i : Nat} (hi : i < 8) :
    (natOfBytesLE bytes).testBit (8 * j + i) = b.getLsbD i := by
  induction bytes generalizing j with
  | nil => cases h
  | cons c rest ih =>
    have hsplit : natOfBytesLE (c :: rest) = 2 ^ 8 * natOfBytesLE rest + c.toNat := by
      rw [natOfBytesLE, Nat.add_comm]; rfl
    rw [hsplit, Nat.testBit_two_pow_mul_add _ c.isLt]
    cases j with
    | zero =>
      obtain rfl : c = b := by simpa using h
      rw [if_pos (by omega), Nat.mul_zero, Nat.zero_add, BitVec.testBit_toNat]
    | succ j =>
      have hshift : 8 * (j + 1) + i - 8 = 8 * j + i := by omega
      rw [if_neg (by omega), hshift]
      exact ih (by simpa using h)

/-- The doubleword that is read at a place (R63). -/
def doublewordAt (m : Memory) (a : Word) : Word := BitVec.ofNat 64 (natOfBytesLE (Memory.readBytes m a 8))

/-- Byte j of the doubleword at a place is the byte at the place plus j (R63). -/
theorem extractLsb'_doublewordAt (m : Memory) (a : Word) {j : Nat} (hj : j < 8) :
    (doublewordAt m a).extractLsb' (8 * j) 8 = Memory.read m (a + BitVec.ofNat 64 j).toNat := by
  refine BitVec.eq_of_getLsbD_eq fun i hi => ?_
  rw [BitVec.getLsbD_extractLsb', doublewordAt, BitVec.getLsbD_ofNat,
    testBit_natOfBytesLE (getElem?_readBytes m a hj) hi, decide_eq_true hi, decide_eq_true (by omega), Bool.true_and,
    Bool.true_and]

/-! ## The memory access of a load -/

theorem memRead8_of_nonCanonical {s : State} {addr : Word} (h : s.isCanonical addr false = false) :
    s.memRead8 addr = .raised (.loadFault addr) := by
  simp [State.memRead8, h]

theorem memRead8_of_misaligned {s : State} {addr : Word} (hcanonical : s.isCanonical addr false = true)
    (hmisaligned : addr.extractLsb' 0 3 ≠ 0#3) (hfaults : s.cfg.misalignedLoad = .faults) :
    s.memRead8 addr = .raised (.misalignedLoad addr) := by
  simp [State.memRead8, hcanonical, hmisaligned, hfaults]

theorem memRead8_of_canonical {s : State} {addr : Word} (hcanonical : s.isCanonical addr false = true)
    (hperformed : addr.extractLsb' 0 3 = 0#3 ∨ s.cfg.misalignedLoad = .performs) :
    s.memRead8 addr = .ok (doublewordAt s.mem (s.place addr false)) := by
  have hnoFault : ¬ (addr.extractLsb' 0 3 ≠ 0#3 ∧ s.cfg.misalignedLoad = .faults) := by
    rintro ⟨hmisaligned, hfaults⟩
    rcases hperformed with haligned | hperforms
    · exact hmisaligned haligned
    · rw [hfaults] at hperforms
      cases hperforms
  simp only [State.memRead8, hcanonical, Bool.not_true, Bool.false_eq_true, if_false, if_neg hnoFault, doublewordAt]

/-! ## The base of a load -/

theorem loadBase_of_aligned {s : State} {o : LoadOperands} (h : o.BaseAligned s) :
    s.loadBase o.key o.base = s.authenticate o.key (s.xsp o.base) (.one 0#64) true :=
  if_neg fun ⟨hsp, hmisaligned⟩ => hmisaligned (h hsp)

/-- A misaligned SP base raises the SP alignment exception where no trap comes before it (R248). -/
theorem loadBase_of_misaligned {s : State} {o : LoadOperands} (h : ¬ o.BaseAligned s)
    (huntrapped : s.enabled o.key = false ∨ s.trapPAC = none) :
    s.loadBase o.key o.base = .raised .spAlignment := by
  have hmisaligned : o.base = 31#5 ∧ s.sp.extractLsb' 0 4 ≠ 0#4 := by
    simpa [LoadOperands.BaseAligned] using h
  have hnoTrap : (if s.enabled o.key then s.trapPAC else none) = none := by
    rcases huntrapped with hdisabled | hnone
    · rw [hdisabled]
      rfl
    · rw [hnone, ite_self]
  rw [State.loadBase, if_pos hmisaligned, hnoTrap]

/-! ## What a load does -/

section Load

variable {i : Instr} {s : State} {o : LoadOperands} (hi : loadOperands i = some o) (hoverlap : ¬ o.Overlap)
include hi hoverlap

/-- A load whose base raises takes that exception. -/
theorem exec_load_of_base_raised {r : Raise} (hbase : s.loadBase o.key o.base = .raised r) :
    exec i s = .next (s.takeException r) := by
  unfold LoadOperands.Overlap at hoverlap
  rw [exec_load s hi, authLoad, if_neg hoverlap, hbase]

/-- A load whose base authenticates ends in what its memory access gives. -/
theorem exec_load_of_base {base : Word} (haligned : o.BaseAligned s)
    (hbase : s.authenticate o.key (s.xsp o.base) (.one 0#64) true = .ok base) :
    exec i s = (s.memRead8 (o.address base)).finish s
      (fun data => s.afterLoad o.dest o.base o.writeback (o.address base) data) := by
  unfold LoadOperands.Overlap at hoverlap
  rw [exec_load s hi, authLoad, if_neg hoverlap, loadBase_of_aligned haligned, hbase]
  rfl

end Load

/-- Settles O54, by what the base of the load and its memory access raise. -/
theorem loadExceptions : Obligations.LoadExceptions := by
  intro i s o hi hoverlap
  refine ⟨fun haligned base hbase => ⟨fun hcanonical => ?_, fun hcanonical hmisaligned hfaults => ?_⟩,
    fun hmisaligned huntrapped => ?_⟩
  · rw [exec_load_of_base hi hoverlap haligned hbase, memRead8_of_nonCanonical hcanonical]
    rfl
  · rw [exec_load_of_base hi hoverlap haligned hbase, memRead8_of_misaligned hcanonical hmisaligned hfaults]
    rfl
  · exact exec_load_of_base_raised hi hoverlap (loadBase_of_misaligned hmisaligned huntrapped)

/-! ## The registers of a completed load -/

theorem xzr_setXsp_same (s : State) {n : RegNum} (v : Word) (h : n ≠ 31#5) : (s.setXsp n v).xzr n = v := by
  rw [State.setXsp, if_neg h, xzr_setXzr_same s n v h]

theorem xzr_setXsp_other (s : State) {n r : RegNum} (v : Word) (h : n ≠ 31#5 → r ≠ n) :
    (s.setXsp n v).xzr r = s.xzr r := by
  unfold State.setXsp
  split
  · exact xzr_setSp s v r
  · next hn => exact xzr_setXzr_other s n r v (h hn)

/-- An instruction that ends with PSTATE.PACM 0 completes, whatever registers and stack pointers it writes (R22, R221). -/
theorem completed_ended (s : State) (x : Vector Word 31) (sps : StackPointers) (next : Word) :
    Completed s (s.ended x sps next false) next where
  pc := rfl
  pstate := rfl
  control := (ended_keeps s x sps next false).1
  exceptionRegs := ⟨rfl, rfl, rfl, rfl⟩
  memory := (ended_keeps s x sps next false).2

/-- The end of a load writes registers and a stack pointer, and is otherwise that of any instruction. -/
theorem afterLoad_eq_ended (s : State) (t n : RegNum) (wback : Bool) (addr data : Word) :
    ∃ x sps, s.afterLoad t n wback addr data = s.ended x sps (s.pc + 4#64) false := by
  cases wback with
  | false => exact ⟨_, _, rfl⟩
  | true =>
    by_cases hsp : n = 31#5
    · subst hsp
      exact ⟨_, _, rfl⟩
    · refine ⟨writeX (writeX s.x t data) n addr, s.sps, ?_⟩
      rw [State.afterLoad, if_pos rfl, State.setXsp, if_neg hsp]
      rfl

theorem completed_afterLoad (s : State) (t n : RegNum) (wback : Bool) (addr data : Word) :
    Completed s (s.afterLoad t n wback addr data) (s.pc + 4#64) := by
  obtain ⟨x, sps, hended⟩ := afterLoad_eq_ended s t n wback addr data
  rw [hended]
  exact completed_ended s x sps _

/-- A register the writeback does not write holds after a load what it holds once Xt has the data. -/
theorem xzr_afterLoad_of_not_base (s : State) (t : RegNum) {n r : RegNum} {wback : Bool} (addr data : Word)
    (h : wback = true → n ≠ 31#5 → r ≠ n) :
    (s.afterLoad t n wback addr data).xzr r = (s.setXzr t data).xzr r := by
  cases wback with
  | false => rfl
  | true => exact xzr_setXsp_other (s.setXzr t data) addr (h rfl)

/-- With writeback the base register holds the address after a load (R206). -/
theorem xzr_afterLoad_base (s : State) (t : RegNum) {n : RegNum} (addr data : Word) (h : n ≠ 31#5) :
    (s.afterLoad t n true addr data).xzr n = addr :=
  xzr_setXsp_same (s.setXzr t data) addr h

/-- A load writes a stack pointer only by a writeback to base number 31, and then the current one (R206). -/
theorem afterLoad_sps (s : State) (t n : RegNum) (wback : Bool) (addr data : Word) :
    (s.afterLoad t n wback addr data).sps =
      if wback = true ∧ n = 31#5 then s.sps.set s.pstate.spLevel addr else s.sps := by
  cases wback <;> simp [State.afterLoad]

/-- Settles O52: the access gives the doubleword at the address's place, and the end of the load writes it to Xt and,
with writeback, the address to the base, which is not Xt unless it is SP. -/
theorem loadWritesTheDoubleword : Obligations.LoadWritesTheDoubleword := by
  intro i s o base hi hoverlap haligned hbase hcanonical hperformed
  refine ⟨s.afterLoad o.dest o.base o.writeback (o.address base) (doublewordAt s.mem (s.place (o.address base) false)),
    doublewordAt s.mem (s.place (o.address base) false), ?_, completed_afterLoad s _ _ _ _ _,
    fun j hj => extractLsb'_doublewordAt s.mem (s.place (o.address base) false) hj, fun hdest => ?_,
    fun hwback hsp => ?_, fun r hdest hnotBase => ?_, xzr_31 _, afterLoad_sps _ _ _ _ _ _⟩
  · rw [exec_load_of_base hi hoverlap haligned hbase, memRead8_of_canonical hcanonical hperformed]
    rfl
  · rw [xzr_afterLoad_of_not_base s o.dest (o.address base) _ fun hwback hsp hsame => hoverlap ⟨hwback, hsame, hsp⟩]
    exact xzr_setXzr_same s o.dest _ hdest
  · rw [hwback]
    exact xzr_afterLoad_base s o.dest (o.address base) _ hsp
  · rw [xzr_afterLoad_of_not_base s o.dest (o.address base) _ fun hwback _ => hnotBase hwback]
    exact xzr_setXzr_other s o.dest r _ hdest

end Sys2Proof.Machine
end

section
/-! Family 30_encoding.md, the decoder and the table of R88: the word of a well-formed instruction decodes to it (O1), a
word that decodes is the word of its instruction (O2), and the rows are disjoint (O3). -/

namespace Sys2Proof

/-! ## The decoder and the table -/

/-- Bytes that begin with the four of a word decode to that word's instruction; the bytes after them are left (R80). -/
theorem decode_bytesOfWord {w : InstrWord} {i : Instr} (h : decodeWord w = some i) (rest : List Byte) :
    decode (bytesOfWord w ++ rest) = .ok (i, rest) := by
  simp only [bytesOfWord, List.cons_append, List.nil_append, decode, wordOfBytes_bytes, h]

/-- Settles O1: the word of a well-formed instruction decodes to it, and so do its bytes, whatever follows them. -/
theorem decodeInvertsEncode : Obligations.DecodeInvertsEncode :=
  fun _ rest hwellFormed => decode_bytesOfWord (decodeWord_encode hwellFormed) rest

/-- The words that decode are those that match a row, and each decodes to its row's instruction (R88). -/
theorem decodeWord_eq_some_iff {w : InstrWord} {i : Instr} :
    decodeWord w = some i ↔ ∃ r ∈ encodingRows, r.matches w = true ∧ r.build w = i := by
  constructor
  · intro h
    obtain ⟨r, hfound, hbuild⟩ := Option.map_eq_some_iff.mp h
    have hmatches := List.find?_some (p := fun r : EncodingRow => r.matches w) hfound
    exact ⟨r, List.mem_of_find?_eq_some hfound, hmatches, hbuild⟩
  · rintro ⟨r, hr, hmatches, rfl⟩
    exact decodeWord_of_matches hr hmatches

/-- Settles O3: two rows ask for different values in a bit that both look at. -/
theorem encodingRowsAreDisjoint : Obligations.EncodingRowsAreDisjoint :=
  ⟨encodingRows_clash.imp fun hclash w hboth => hclash.not_both w hboth.1 hboth.2,
    fun r hr w hmatches => decodeWord_of_matches hr ((r.matches_iff w).mpr hmatches)⟩

/-! ## Placing the field that a word holds gives the word's own bits -/

theorem placeLow_fieldLow (w : InstrWord) : placeLow (fieldLow w) = w &&& 0x1f#32 := by
  have hmask : ∀ i < 32, (0x1f#32).getLsbD i = decide (i < 5) := by decide
  refine BitVec.eq_of_getLsbD_eq fun i hi => ?_
  rw [getLsbD_placeLow, fieldLow, BitVec.getLsbD_extractLsb', BitVec.getLsbD_and, hmask i hi, Nat.zero_add,
    Bool.and_comm]

theorem placeMid_fieldMid (w : InstrWord) : placeMid (fieldMid w) = w &&& 0x3e0#32 := by
  have hmask : ∀ i < 32, (0x3e0#32).getLsbD i = decide (5 ≤ i ∧ i - 5 < 5) := by decide
  refine BitVec.eq_of_getLsbD_eq fun i hi => ?_
  rw [getLsbD_placeMid, fieldMid, BitVec.getLsbD_extractLsb', BitVec.getLsbD_and, hmask i hi]
  by_cases hlo : 5 ≤ i
  · simp [hlo, Bool.and_comm]
  · simp [hlo]

theorem placeHigh_fieldHigh (w : InstrWord) : placeHigh (fieldHigh w) = w &&& 0x1f0000#32 := by
  have hmask : ∀ i < 32, (0x1f0000#32).getLsbD i = decide (16 ≤ i ∧ i - 16 < 5) := by decide
  refine BitVec.eq_of_getLsbD_eq fun i hi => ?_
  rw [getLsbD_placeHigh, fieldHigh, BitVec.getLsbD_extractLsb', BitVec.getLsbD_and, hmask i hi]
  by_cases hlo : 16 ≤ i
  · simp [hlo, Bool.and_comm]
  · simp [hlo]

/-- The scaled offset that a load word holds is S:imm9 (R86). -/
theorem ofInt_fieldOffset (w : InstrWord) :
    BitVec.ofInt 10 (fieldOffset w / 8) = w.extractLsb' 22 1 ++ w.extractLsb' 12 9 := by
  rw [fieldOffset, Int.mul_ediv_cancel_left _ (by decide), BitVec.ofInt_toInt]

theorem placeOffset_fieldOffset (w : InstrWord) : placeOffset (fieldOffset w) = w &&& 0x5ff000#32 := by
  have hmask : ∀ i < 32, (0x5ff000#32).getLsbD i = decide (i = 22 ∨ 12 ≤ i ∧ i ≤ 20) := by decide
  refine BitVec.eq_of_getLsbD_eq fun i hi => ?_
  rw [getLsbD_placeOffset, ofInt_fieldOffset, BitVec.getLsbD_and, hmask i hi]
  simp only [BitVec.getLsbD_append, BitVec.getLsbD_extractLsb']
  by_cases hS : i = 22
  · subst hS
    simp
  · by_cases himm9 : 12 ≤ i ∧ i ≤ 20
    · have hlow : i - 12 < 9 := by omega
      simp [hS, himm9, hlow]
    · simp [hS, himm9]

/-- Every offset that a load word holds is a multiple of 8 from -4096 to 4088 (R86). -/
theorem fieldOffset_wellFormed (w : InstrWord) :
    (offsetScaled (fieldOffset w) && offsetInRange (fieldOffset w)) = true := by
  unfold fieldOffset
  have hupper := BitVec.toInt_lt (x := w.extractLsb' 22 1 ++ w.extractLsb' 12 9)
  have hlower := BitVec.le_toInt (w.extractLsb' 22 1 ++ w.extractLsb' 12 9)
  simp only [offsetScaled, offsetInRange, Bool.and_eq_true, beq_iff_eq, decide_eq_true_eq]
  omega

/-! ## Rows that read every bit -/

/-- A word of the row is the word of the instruction that the row builds from it, and that one is well-formed. -/
def EncodingRow.ReadsEveryBit (r : EncodingRow) : Prop :=
  ∀ w : InstrWord, w &&& r.mask = r.pattern → (r.build w).wellFormed = true ∧ encode (r.build w) = w

/-- A word is its row's pattern and the bits that the row's mask leaves free. -/
theorem pattern_or_free {w mask pattern free : InstrWord} (h : w &&& mask = pattern)
    (hfree : mask ||| free = BitVec.allOnes 32) : pattern ||| w &&& free = w := by
  rw [← h, ← BitVec.and_or_distrib_left, hfree, BitVec.and_allOnes]

namespace EncodingRow.ReadsEveryBit

/-! One lemma per format: which operands its rows have, and where encode places them. -/

section Formats

variable {mnemonic : String} {pattern : InstrWord}

/-- A row with no operand. -/
theorem fixed {i : Instr} (hwf : i.wellFormed = true := by rfl) (hword : encode i = pattern := by rfl) :
    ReadsEveryBit ⟨mnemonic, 0xffffffff#32, pattern, fun _ => i⟩ := by
  intro w hmatches
  exact ⟨hwf, hword.trans (hmatches.symm.trans BitVec.and_allOnes)⟩

/-- A row with a register in bits [4:0]. -/
theorem low {build : RegNum → Instr} (hwf : ∀ d, (build d).wellFormed = true := by intro _; rfl)
    (hword : ∀ d, encode (build d) = pattern ||| placeLow d := by intro _; rfl) :
    ReadsEveryBit ⟨mnemonic, 0xffffffe0#32, pattern, fun w => build (fieldLow w)⟩ := by
  intro w hmatches
  refine ⟨hwf _, ?_⟩
  rw [hword, placeLow_fieldLow]
  exact pattern_or_free (mask := 0xffffffe0#32) hmatches (by decide)

/-- A row with a register in bits [9:5]. -/
theorem mid {build : RegNum → Instr} (hwf : ∀ n, (build n).wellFormed = true := by intro _; rfl)
    (hword : ∀ n, encode (build n) = pattern ||| placeMid n := by intro _; rfl) :
    ReadsEveryBit ⟨mnemonic, 0xfffffc1f#32, pattern, fun w => build (fieldMid w)⟩ := by
  intro w hmatches
  refine ⟨hwf _, ?_⟩
  rw [hword, placeMid_fieldMid]
  exact pattern_or_free (mask := 0xfffffc1f#32) hmatches (by decide)

/-- A row with registers in bits [4:0] and [9:5], in this order. -/
theorem lowMid {build : RegNum → RegNum → Instr} (hwf : ∀ d n, (build d n).wellFormed = true := by intro _ _; rfl)
    (hword : ∀ d n, encode (build d n) = pattern ||| placeLow d ||| placeMid n := by intro _ _; rfl) :
    ReadsEveryBit ⟨mnemonic, 0xfffffc00#32, pattern, fun w => build (fieldLow w) (fieldMid w)⟩ := by
  intro w hmatches
  refine ⟨hwf _ _, ?_⟩
  rw [hword, placeLow_fieldLow, placeMid_fieldMid, BitVec.or_assoc, ← BitVec.and_or_distrib_left]
  exact pattern_or_free (mask := 0xfffffc00#32) hmatches (by decide)

/-- A row with registers in bits [9:5] and [4:0], in this order. -/
theorem midLow {build : RegNum → RegNum → Instr} (hwf : ∀ n m, (build n m).wellFormed = true := by intro _ _; rfl)
    (hword : ∀ n m, encode (build n m) = pattern ||| placeMid n ||| placeLow m := by intro _ _; rfl) :
    ReadsEveryBit ⟨mnemonic, 0xfffffc00#32, pattern, fun w => build (fieldMid w) (fieldLow w)⟩ :=
  lowMid (build := fun m n => build n m) (fun m n => hwf n m) fun m n => by
    rw [hword, BitVec.or_assoc, BitVec.or_comm (placeMid n), ← BitVec.or_assoc]

/-- A row with registers in bits [4:0], [9:5] and [20:16]. -/
theorem lowMidHigh {build : RegNum → RegNum → RegNum → Instr}
    (hwf : ∀ d n m, (build d n m).wellFormed = true := by intro _ _ _; rfl)
    (hword : ∀ d n m, encode (build d n m) = pattern ||| placeLow d ||| placeMid n ||| placeHigh m := by
      intro _ _ _; rfl) :
    ReadsEveryBit ⟨mnemonic, 0xffe0fc00#32, pattern, fun w => build (fieldLow w) (fieldMid w) (fieldHigh w)⟩ := by
  intro w hmatches
  refine ⟨hwf _ _ _, ?_⟩
  rw [hword, placeLow_fieldLow, placeMid_fieldMid, placeHigh_fieldHigh, BitVec.or_assoc, BitVec.or_assoc,
    ← BitVec.and_or_distrib_left, ← BitVec.and_or_distrib_left]
  exact pattern_or_free (mask := 0xffe0fc00#32) hmatches (by decide)

/-- A load's row: registers in bits [4:0] and [9:5] and an offset, which every load word holds in range. -/
theorem load {build : RegNum → RegNum → Int → Instr}
    (hwf : ∀ t n offset, (build t n offset).wellFormed = (offsetScaled offset && offsetInRange offset) := by
      intro _ _ _; rfl)
    (hword : ∀ t n offset,
      encode (build t n offset) = pattern ||| placeLow t ||| placeMid n ||| placeOffset offset := by intro _ _ _; rfl) :
    ReadsEveryBit ⟨mnemonic, 0xffa00c00#32, pattern, fun w => build (fieldLow w) (fieldMid w) (fieldOffset w)⟩ := by
  intro w hmatches
  refine ⟨(hwf _ _ _).trans (fieldOffset_wellFormed w), ?_⟩
  rw [hword, placeLow_fieldLow, placeMid_fieldMid, placeOffset_fieldOffset, BitVec.or_assoc, BitVec.or_assoc,
    ← BitVec.and_or_distrib_left, ← BitVec.and_or_distrib_left]
  exact pattern_or_free (mask := 0xffa00c00#32) hmatches (by decide)

end Formats

/-! The format of each row, in the table's order. -/

theorem of_mem_insertRows : ∀ r ∈ insertRows, r.ReadsEveryBit := by
  simp only [insertRows, List.forall_mem_cons]
  exact ⟨lowMid, lowMid, lowMid, lowMid, low, low, low, low, fixed, fixed, fixed, fixed, fixed, fixed, fixed,
    List.forall_mem_nil _⟩

theorem of_mem_authenticateRows : ∀ r ∈ authenticateRows, r.ReadsEveryBit := by
  simp only [authenticateRows, List.forall_mem_cons]
  exact ⟨lowMid, lowMid, lowMid, lowMid, low, low, low, low, fixed, fixed, fixed, fixed, fixed, fixed,
    List.forall_mem_nil _⟩

theorem of_mem_stripRows : ∀ r ∈ stripRows, r.ReadsEveryBit := by
  simp only [stripRows, List.forall_mem_cons]
  exact ⟨low, low, fixed, lowMidHigh, List.forall_mem_nil _⟩

theorem of_mem_branchRows : ∀ r ∈ branchRows, r.ReadsEveryBit := by
  simp only [branchRows, List.forall_mem_cons]
  exact ⟨midLow, midLow, mid, mid, midLow, midLow, mid, mid, fixed, fixed, mid, fixed, fixed, List.forall_mem_nil _⟩

theorem of_mem_loadRows : ∀ r ∈ loadRows, r.ReadsEveryBit := by
  simp only [loadRows, List.forall_mem_cons]
  exact ⟨load, load, load, load, List.forall_mem_nil _⟩

theorem of_mem_pacmRows : ∀ r ∈ pacmRows, r.ReadsEveryBit := by
  simp only [pacmRows, List.forall_mem_cons]
  exact ⟨fixed, fixed, List.forall_mem_nil _⟩

theorem of_mem_encodingRows : ∀ r ∈ encodingRows, r.ReadsEveryBit := by
  simp only [encodingRows, List.forall_mem_append]
  exact ⟨⟨⟨⟨⟨of_mem_insertRows, of_mem_authenticateRows⟩, of_mem_stripRows⟩, of_mem_branchRows⟩, of_mem_loadRows⟩,
    of_mem_pacmRows⟩

end EncodingRow.ReadsEveryBit

/-- Settles O2: the word matches the row that built the instruction, and every row reads every bit of its words. -/
theorem decodedWordIsTheInstructionsWord : Obligations.DecodedWordIsTheInstructionsWord := by
  intro w i hdecode
  obtain ⟨r, hr, hmatches, rfl⟩ := decodeWord_eq_some_iff.mp hdecode
  exact EncodingRow.ReadsEveryBit.of_mem_encodingRows r hr w ((r.matches_iff w).mp hmatches)

end Sys2Proof
end

section
/-! Family 30_encoding.md, the words of no row (O8): the formats H, D1 and B and the words set apart in them, what each
kind of word does in a step. -/

namespace Sys2Proof

/-! ## Two masks on one word -/

/-- A word that agrees with a pattern under a mask agrees with it under a part of the mask. -/
theorem masked_of_masked {w mask pattern part value : InstrWord} (h : w &&& mask = pattern)
    (hpart : mask &&& part = part) (hvalue : pattern &&& part = value) : w &&& part = value := by
  rw [← hpart, ← BitVec.and_assoc, h, hvalue]

/-- A word does not agree under two masks with patterns that differ where both masks look. -/
theorem masked_ne_of_masked {w mask pattern mask' pattern' : InstrWord} (h : w &&& mask = pattern)
    (hdiffer : pattern &&& mask' ≠ pattern' &&& mask) : w &&& mask' ≠ pattern' := by
  rintro rfl
  rw [← h, BitVec.and_assoc, BitVec.and_assoc, BitVec.and_comm mask] at hdiffer
  exact hdiffer rfl

/-! ## The formats -/

theorem inFormatH_iff {w : InstrWord} : inFormatH w = true ↔ w &&& 0xfffff01f#32 = 0xd503201f#32 := by
  simp [inFormatH]

theorem inFormatD1_iff {w : InstrWord} : inFormatD1 w = true ↔ w &&& 0xffff0000#32 = 0xdac10000#32 := by
  simp [inFormatD1]

theorem inFormatB_iff {w : InstrWord} : inFormatB w = true ↔ w &&& 0xfe1f0000#32 = 0xd61f0000#32 := by
  simp [inFormatB]

theorem inPAuthLRSpace_iff {w : InstrWord} :
    inPAuthLRSpace w = true ↔ w &&& 0xffffc01f#32 = 0xdac1801e#32 ∨ w &&& 0xfffffbe0#32 = 0xd65f0be0#32 := by
  simp [inPAuthLRSpace]

/-- Format D1 or B: the formats of the PAC instructions of which a word can be unallocated (R90). -/
def inPacFormat (w : InstrWord) : Bool := inFormatD1 w || inFormatB w

theorem inPacFormat_iff {w : InstrWord} :
    inPacFormat w = true ↔ w &&& 0xffff0000#32 = 0xdac10000#32 ∨ w &&& 0xfe1f0000#32 = 0xd61f0000#32 := by
  rw [inPacFormat, Bool.or_eq_true, inFormatD1_iff, inFormatB_iff]

/-- A word of format D1 or B is not one of format H. -/
theorem inFormatH_eq_false_of_inPacFormat {w : InstrWord} (h : inPacFormat w = true) : inFormatH w = false := by
  rw [Bool.eq_false_iff, ne_eq, inFormatH_iff]
  rcases inPacFormat_iff.mp h with hD1 | hB
  · exact masked_ne_of_masked hD1 (by decide)
  · exact masked_ne_of_masked hB (by decide)

/-- The words that D34 can have are of format D1 or B. -/
theorem inPacFormat_of_inPAuthLRSpace {w : InstrWord} (h : inPAuthLRSpace w = true) : inPacFormat w = true := by
  rw [inPacFormat_iff]
  rcases inPAuthLRSpace_iff.mp h with hD1 | hB
  · exact .inl (masked_of_masked hD1 (by decide) (by decide))
  · exact .inr (masked_of_masked hB (by decide) (by decide))

/-- BR, BLR and ERET are not among the words that D34 can have. -/
theorem inPAuthLRSpace_eq_false_of_isPlainBranch {w : InstrWord} (h : isPlainBranch w = true) :
    inPAuthLRSpace w = false := by
  rw [Bool.eq_false_iff, ne_eq, inPAuthLRSpace_iff]
  simp only [isPlainBranch, Bool.or_eq_true, beq_iff_eq] at h
  rcases h with (hBR | hBLR) | rfl
  · exact not_or.mpr ⟨masked_ne_of_masked hBR (by decide), masked_ne_of_masked hBR (by decide)⟩
  · exact not_or.mpr ⟨masked_ne_of_masked hBLR (by decide), masked_ne_of_masked hBLR (by decide)⟩
  · decide

/-! ## What a word of no row is -/

theorem noRowKind_of_inFormatH {w : InstrWord} (h : inFormatH w = true) :
    noRowKind w = if isBTI w = true then .surrounding else .hint :=
  if_pos h

theorem noRowKind_of_inPAuthLRSpace {w : InstrWord} (h : inPAuthLRSpace w = true) : noRowKind w = .pauthLRSpace := by
  have hH := inFormatH_eq_false_of_inPacFormat (inPacFormat_of_inPAuthLRSpace h)
  simp [noRowKind, hH, h]

theorem noRowKind_of_isPlainBranch {w : InstrWord} (hformat : inPacFormat w = true) (h : isPlainBranch w = true) :
    noRowKind w = .surrounding := by
  simp [noRowKind, inFormatH_eq_false_of_inPacFormat hformat, inPAuthLRSpace_eq_false_of_isPlainBranch h, h]

/-- Of the rest of formats D1 and B every word is unallocated (R90). -/
theorem noRowKind_unallocated {w : InstrWord} (hformat : inPacFormat w = true) (hspace : inPAuthLRSpace w = false)
    (hbranch : isPlainBranch w = false) : noRowKind w = .unallocated := by
  have hD1B : (inFormatD1 w || inFormatB w) = true := hformat
  simp [noRowKind, inFormatH_eq_false_of_inPacFormat hformat, hspace, hbranch, hD1B]

theorem noRowKind_of_no_format {w : InstrWord} (hH : inFormatH w = false) (hformat : inPacFormat w = false) :
    noRowKind w = .surrounding := by
  have hD1B : (inFormatD1 w || inFormatB w) = false := hformat
  have hspace : inPAuthLRSpace w = false :=
    Bool.eq_false_iff.mpr fun h => Bool.eq_false_iff.mp hformat (inPacFormat_of_inPAuthLRSpace h)
  simp [noRowKind, hH, hspace, hD1B]

end Sys2Proof

namespace Sys2Proof.Machine

open Sys2Proof

/-! ## What a word of no row does -/

theorem execWord_of_noRow {w : InstrWord} (h : decodeWord w = none) (s : State) :
    execWord w s = execNoRow (noRowKind w) w s := by
  rw [execWord, h]

/-- Without FEAT_PAuth_LR the words that D34 can have are UNDEFINED (log 25). -/
theorem execNoRow_pauthLRSpace_absent {s : State} (h : s.cfg.pauthLR = false) (w : InstrWord) :
    execNoRow .pauthLRSpace w s = .next (s.takeException .undefined) := by
  simp [execNoRow, h]

/-- With FEAT_PAuth_LR the words that D34 can have are no instruction of the spec (D34). -/
theorem execNoRow_pauthLRSpace_present {s : State} (h : s.cfg.pauthLR = true) (w : InstrWord) :
    execNoRow .pauthLRSpace w s = .refused (.notInSpec w) := by
  simp [execNoRow, h]

/-- Settles O8, by the kind of the word that lies at the pc. -/
theorem wordsOutsideTheTable : Obligations.WordsOutsideTheTable := by
  intro s w hcanonical haligned hbytes hnoRow
  rw [step_of_word hcanonical haligned hbytes, execWord_of_noRow hnoRow]
  refine ⟨fun hH => ?_, fun hformat => ?_, fun hnotH hnotD1 hnotB => ?_⟩
  · rw [noRowKind_of_inFormatH (inFormatH_iff.mpr hH)]
    refine ⟨fun hhint => ?_, fun hBTI => ?_⟩
    · rw [hhint]
      exact ⟨s.retire, rfl, wroteNothing_retireAt s _⟩
    · rw [hBTI]
      rfl
  · replace hformat := inPacFormat_iff.mpr hformat
    refine ⟨fun hbranch hundefined => ?_, fun hrefused => ?_⟩
    · cases hspace : inPAuthLRSpace w with
      | false =>
        rw [noRowKind_unallocated hformat hspace hbranch]
        rfl
      | true =>
        have habsent : s.cfg.pauthLR = false := hundefined.resolve_right (Bool.eq_false_iff.not_left.mpr hspace)
        rw [noRowKind_of_inPAuthLRSpace hspace, execNoRow_pauthLRSpace_absent habsent]
    · rcases hrefused with hbranch | ⟨hpresent, hspace⟩
      · rw [noRowKind_of_isPlainBranch hformat hbranch]
        rfl
      · rw [noRowKind_of_inPAuthLRSpace hspace, execNoRow_pauthLRSpace_present hpresent]
  · have hH : inFormatH w = false := Bool.eq_false_iff.mpr (inFormatH_iff.not.mpr hnotH)
    have hformat : inPacFormat w = false :=
      Bool.eq_false_iff.mpr (inPacFormat_iff.not.mpr (not_or.mpr ⟨hnotD1, hnotB⟩))
    rw [noRowKind_of_no_format hH hformat]
    rfl

end Sys2Proof.Machine
end

section
/-! Family 30_encoding.md, PACM and NOP (O55). -/

namespace Sys2Proof.Machine

open Sys2Proof

/-- PACM ends the instruction with PSTATE.PACM as its enable says, and writes no register or stack pointer (R220). -/
theorem exec_pacm_eq_ended (s : State) :
    exec .pacm s = .next (s.ended s.x s.sps (s.pc + 4#64) (s.pacmEnabled s.pstate.el)) := rfl

theorem exec_nop_eq_retire (s : State) : exec .nop s = .next s.retire := rfl

/-- Settles O55: PACM is the end of an instruction but for the value of PSTATE.PACM, and NOP is that end. -/
theorem pacmAndNopComplete : Obligations.PacmAndNopComplete := by
  intro s
  obtain ⟨hcontrol, hmemory⟩ := ended_keeps s s.x s.sps (s.pc + 4#64) (s.pacmEnabled s.pstate.el)
  exact ⟨⟨_, exec_pacm_eq_ended s, rfl, ended_pstate s _ _ _ _, fun _ => rfl, ended_sps s _ _ _ _, hcontrol,
      ⟨rfl, rfl, rfl, rfl⟩, hmemory⟩,
    ⟨_, exec_nop_eq_retire s, wroteNothing_retireAt s _⟩⟩

end Sys2Proof.Machine
end

section
/-! Family 40_pac_field_and_functions.md, which controls apply to a pointer: tagging (O19), bottom_PAC_bit (O20) and the
bit that selects the range (O21). -/

namespace Sys2Proof.Machine

open Sys2Proof

/-! ## Tagging -/

/-- Address tagging by one pair of TBI and TBID bits (R129). -/
theorem tagBits_iff (tbi isInstr tbid : Bool) :
    (tbi && !(isInstr && tbid)) = true ↔ tbi = true ∧ ¬ (isInstr = true ∧ tbid = true) := by
  rw [Bool.and_eq_true, Bool.not_eq_true', ← Bool.not_eq_true, Bool.and_eq_true]

theorem tagUsed_of_singleRange {s : State} (h : s.singleRange = true) (n isInstr : Bool) :
    s.tagUsed n isInstr = (s.tcrNow.tbi && !(isInstr && s.tcrNow.tbid)) := if_pos h

theorem tagUsed_lower {s : State} (h : s.singleRange = false) (isInstr : Bool) :
    s.tagUsed false isInstr = (s.tcrNow.tbi0 && !(isInstr && s.tcrNow.tbid0)) := by
  rw [State.tagUsed, h]
  rfl

theorem tagUsed_upper {s : State} (h : s.singleRange = false) (isInstr : Bool) :
    s.tagUsed true isInstr = (s.tcrNow.tbi1 && !(isInstr && s.tcrNow.tbid1)) := by
  rw [State.tagUsed, h]
  rfl

/-- Settles O19: a regime with a single VA range has one pair of tagging bits, another one a pair for each range. -/
theorem taggingControls : Obligations.TaggingControls := by
  intro s isInstr
  refine ⟨fun hsingle n => ?_, fun htwo => ⟨?_, ?_⟩, rfl, rfl⟩
  · rw [tagUsed_of_singleRange hsingle]
    exact tagBits_iff _ _ _
  · rw [tagUsed_lower htwo]
    exact tagBits_iff _ _ _
  · rw [tagUsed_upper htwo]
    exact tagBits_iff _ _ _

/-! ## bottom_PAC_bit -/

/-- The value in the TnSZ field that applies now. -/
def State.writtenTnSZ (s : State) (n : Bool) : Nat := (if n then s.tcrNow.t1sz else s.tcrNow.t0sz).toNat

/-- Without FEAT_LVA3 the least permitted TnSZ is at least 12 (R109). -/
theorem tnszLeast_eq (cfg : Config) :
    cfg.tnszLeast = if cfg.lva3 then cfg.tnszMin.toNat else if cfg.tnszMin.toNat < 12 then 12 else cfg.tnszMin.toNat := by
  have hmax : Nat.max 12 cfg.tnszMin.toNat = if cfg.tnszMin.toNat < 12 then 12 else cfg.tnszMin.toNat := by
    show max 12 cfg.tnszMin.toNat = _
    split <;> omega
  rw [Config.tnszLeast, hmax]

theorem effTnSZ_of_permitted {s : State} {n : Bool}
    (h : s.cfg.tnszLeast ≤ s.writtenTnSZ n ∧ s.writtenTnSZ n ≤ s.cfg.tnszMax.toNat) : s.effTnSZ n = s.writtenTnSZ n :=
  if_pos h

/-- A TnSZ out of range has the result that the configuration chooses (R110, log 7). -/
theorem effTnSZ_of_not_permitted {s : State} {n : Bool}
    (h : ¬ (s.cfg.tnszLeast ≤ s.writtenTnSZ n ∧ s.writtenTnSZ n ≤ s.cfg.tnszMax.toNat)) :
    s.effTnSZ n = match s.cfg.tnszOor with
      | .written => s.writtenTnSZ n
      | .min => s.cfg.tnszLeast
      | .max => s.cfg.tnszMax.toNat := by
  refine (if_neg h).trans ?_
  cases s.cfg.tnszOor <;> rfl

/-- Settles O20, by whether the written TnSZ is in the permitted range. -/
theorem bottomBitFromTnSZ : Obligations.BottomBitFromTnSZ := by
  intro s n v least hv hleast
  rw [← tnszLeast_eq] at hleast
  obtain rfl : v = s.writtenTnSZ n := hv
  subst hleast
  refine ⟨fun hlow hhigh => ?_, fun hout => ?_⟩
  · rw [State.bottomBit, effTnSZ_of_permitted ⟨hlow, hhigh⟩]
  · rw [State.bottomBit, effTnSZ_of_not_permitted hout]
    exact ⟨fun hoor => by rw [hoor], fun hoor => by rw [hoor], fun hoor => by rw [hoor]⟩

/-! ## The bit that selects the range -/

/-- Some range of the regime is tagged for this kind of pointer (R103). -/
def State.anyTagUsed (s : State) (isInstr : Bool) : Bool :=
  s.tagUsed false isInstr || (!s.singleRange && s.tagUsed true isInstr)

theorem anyTagUsed_eq_false_iff {s : State} {isInstr : Bool} :
    s.anyTagUsed isInstr = false ↔
      s.tagUsed false isInstr = false ∧ (s.singleRange = true ∨ s.tagUsed true isInstr = false) := by
  rw [State.anyTagUsed, Bool.or_eq_false_iff, Bool.and_eq_false_iff, Bool.not_eq_false']

theorem selectBit_of_constPacField {s : State} (h : s.cfg.constPacField = true) (ptr : Word) (isInstr inserting : Bool) :
    s.selectBit ptr isInstr inserting = ptr.getLsbD 55 := by
  simp [State.selectBit, h]

theorem selectBit_of_anyTagUsed {s : State} {isInstr : Bool} (h : s.anyTagUsed isInstr = true) (ptr : Word)
    (inserting : Bool) : s.selectBit ptr isInstr inserting = ptr.getLsbD 55 := by
  unfold State.anyTagUsed at h
  simp [State.selectBit, h]

/-- Only an insertion without FEAT_CONSTPACFIELD in a regime with no tagged range selects with bit 63 (R102, R103). -/
theorem selectBit_of_untagged {s : State} {isInstr : Bool} (hconst : s.cfg.constPacField = false)
    (h : s.anyTagUsed isInstr = false) (ptr : Word) : s.selectBit ptr isInstr true = ptr.getLsbD 63 := by
  unfold State.anyTagUsed at h
  simp [State.selectBit, hconst, h]

/-- Settles O21, by FEAT_CONSTPACFIELD, the kind of operation and the tagging of the regime's ranges. -/
theorem selectionBit : Obligations.SelectionBit := by
  intro s ptr isInstr
  refine ⟨fun hconst => selectBit_of_constPacField hconst ptr isInstr, selectBit_false s ptr isInstr,
    fun hlower => selectBit_of_anyTagUsed ?_ ptr true, fun htwo hupper => selectBit_of_anyTagUsed ?_ ptr true,
    fun hconst hlower hupper => selectBit_of_untagged hconst (anyTagUsed_eq_false_iff.mpr ⟨hlower, hupper⟩) ptr⟩
  · rw [State.anyTagUsed, hlower, Bool.true_or]
  · rw [State.anyTagUsed, htwo, hupper, Bool.not_false, Bool.and_true, Bool.or_true]

end Sys2Proof.Machine
end

section
/-! Family 40_pac_field_and_functions.md, the PAC field and the insertion of a PAC: PACFieldMask (O23), the function that
computes a PAC (O25), the context of a pointer and AddPAC bit by bit (O27), the corrupted PAC (O28). -/

namespace Sys2Proof.Machine

open Sys2Proof

/-! ## PACFieldMask -/

theorem sliceMask_iff {hi lo i : Nat} (h : hi < 64) : (sliceMask hi lo).getLsbD i = true ↔ lo ≤ i ∧ i ≤ hi := by
  rw [getLsbD_sliceMask _ _ _ h, decide_eq_true_eq]

/-- PACFieldMask below the tag: it reaches bit 55 above bottom_PAC_bit 52 in a regime with a single VA range (R104). -/
theorem lowField_iff (b i : Nat) (single : Bool) :
    (sliceMask (if (decide (52 < b) && single) = true then 55 else 54) b).getLsbD i = true ↔
      if 52 < b ∧ single = true then b ≤ i ∧ i ≤ 55 else b ≤ i ∧ i ≤ 54 := by
  simp only [Bool.and_eq_true, decide_eq_true_eq]
  split
  · exact sliceMask_iff (by decide)
  · exact sliceMask_iff (by decide)

/-- Settles O23: the field below the tag, and above it the bits that no tag holds. -/
theorem pacFieldPositions : Obligations.PacFieldPositions := by
  intro b lat single i hi
  refine ⟨lowField_iff b i single, ?_, ?_⟩
  · have hlat : (sliceMask 63 60).getLsbD i = true ↔ 60 ≤ i := by
      rw [sliceMask_iff (by decide)]
      omega
    have hmask : pacFieldMask b false true single =
        sliceMask 63 60 ||| sliceMask (if (decide (52 < b) && single) = true then 55 else 54) b := rfl
    rw [hmask, BitVec.getLsbD_or, Bool.or_eq_true, hlat, lowField_iff]
  · by_cases hwide : 52 < b ∧ single = true
    · have hmask : pacFieldMask b false false single = sliceMask 63 b := by simp [pacFieldMask, hwide]
      rw [hmask, sliceMask_iff (by decide), if_pos hwide]
      omega
    · have hmask : pacFieldMask b false false single = sliceMask 63 56 ||| sliceMask 54 b := by
        simp [pacFieldMask, hwide]
      rw [hmask, BitVec.getLsbD_or, Bool.or_eq_true, sliceMask_iff (by decide), sliceMask_iff (by decide), if_neg hwide]
      omega

/-! ## The function that computes a PAC -/

/-- The two halves of the diversifier determine it (R114). -/
theorem eq_div2 {m1 m2 d : Word} (hlow : d.extractLsb' 0 32 = m1.extractLsb' 4 32)
    (hhigh : d.extractLsb' 32 32 = m2.extractLsb' 5 32) : d = div2 m1 m2 := by
  have hhalves : d.extractLsb' 32 32 ++ d.extractLsb' 0 32 = d := by
    rw [BitVec.extractLsb'_append_extractLsb'_eq_extractLsb' (by decide)]
    exact BitVec.extractLsb'_eq_self
  rw [← hhalves, hlow, hhigh, div2]

/-- Settles O25, by the route of the modifiers and the algorithm. -/
theorem twoModifiersAreOneDiversifier : Obligations.TwoModifiersAreOneDiversifier := by
  refine ⟨fun _ _ _ _ => rfl, fun key m1 m2 d data => ⟨fun _ => rfl, fun hlow hhigh method hqarma => ?_,
    fun _ => ⟨rfl, rfl⟩⟩⟩
  rw [eq_div2 hlow hhigh]
  rcases hqarma with rfl | rfl
  · exact ⟨rfl, rfl⟩
  · exact ⟨rfl, rfl⟩

/-! ## The corrupted PAC -/

theorem corruptPAC_of_pauth2 {cfg : Config} (h : cfg.featPAuth2 = true) (pac : Word) (top : Nat) :
    corruptPAC cfg pac top = pac := if_pos h

theorem corruptPAC_of_epac {cfg : Config} (hpauth2 : cfg.featPAuth2 = false) (h : cfg.featEPAC = true) (pac : Word)
    (top : Nat) : corruptPAC cfg pac top = 0#64 := by
  simp [corruptPAC, hpauth2, h]

/-- With neither feature one bit of the PAC is inverted (R118). -/
theorem getLsbD_corruptPAC {cfg : Config} (hpauth2 : cfg.featPAuth2 = false) (hepac : cfg.featEPAC = false) (pac : Word)
    (top : Nat) {i : Nat} (hi : i < 64) :
    (corruptPAC cfg pac top).getLsbD i = if i = top - 1 then !pac.getLsbD i else pac.getLsbD i := by
  have hinverted : corruptPAC cfg pac top = pac ^^^ 1#64 <<< (top - 1) := by simp [corruptPAC, hpauth2, hepac]
  rw [hinverted, BitVec.getLsbD_xor, getLsbD_oneShift _ _ hi]
  by_cases hbit : i = top - 1
  · rw [if_pos hbit, decide_eq_true hbit, Bool.xor_true]
  · rw [if_neg hbit, decide_eq_false hbit, Bool.xor_false]

theorem top_sub_one (c : PacContext) : c.top - 1 = if c.tbi then 54 else 62 := by
  rw [PacContext.top]
  split <;> rfl

/-- Settles O28. -/
theorem corruptedPac : Obligations.CorruptedPac := by
  refine fun cfg c pac => ⟨fun hpauth2 => corruptPAC_of_pauth2 hpauth2 pac c.top,
    fun hpauth2 hepac => corruptPAC_of_epac hpauth2 hepac pac c.top, fun hpauth2 hepac i hi => ?_⟩
  rw [getLsbD_corruptPAC hpauth2 hepac pac c.top hi, top_sub_one]

/-! ## The context of a pointer, and the signed pointer -/

/-- Up to bottom_PAC_bit 55 the positions of the extension bits are the field and bit 55. -/
theorem ext_of_le {s : State} {p : Word} {isInstr ins : Bool} (h : (s.pacContext p isInstr ins).bottom ≤ 55) :
    (s.pacContext p isInstr ins).ext = (s.pacContext p isInstr ins).field ||| 1#64 <<< 55 := if_pos h

/-- The PAC that AddPAC puts in the field: that of the extended pointer, corrupted for a non-canonical one (R117). -/
def insertedPAC (cfg : Config) (c : PacContext) (pacOf : Word → Word) (ptr : Word) : Word :=
  if c.nonCanonical ptr then corruptPAC cfg (pacOf (c.extend ptr)) c.top else pacOf (c.extend ptr)

theorem insertedPAC_of_canonical {cfg : Config} {c : PacContext} {pacOf : Word → Word} {ptr : Word}
    (h : c.Canonical ptr) : insertedPAC cfg c pacOf ptr = pacOf (c.extend ptr) := by
  rw [insertedPAC, nonCanonical_eq_false h, if_neg Bool.false_ne_true]

theorem insertedPAC_of_not_canonical {cfg : Config} {c : PacContext} {pacOf : Word → Word} {ptr : Word}
    (h : ¬ c.Canonical ptr) : insertedPAC cfg c pacOf ptr = corruptPAC cfg (pacOf (c.extend ptr)) c.top := by
  rw [insertedPAC, if_pos ((nonCanonical_iff c ptr).mpr h)]

/-- AddPAC bit by bit: the PAC in the field, the selection bit at the other positions of the extension bits (R117). -/
theorem getLsbD_addPAC (cfg : Config) (c : PacContext) (pacOf : Word → Word) (ptr : Word) {i : Nat} (hi : i < 64) :
    (addPAC cfg c pacOf ptr).getLsbD i =
      if c.field.getLsbD i then
        (if cfg.featPAuth2 then xor (ptr.getLsbD i) ((insertedPAC cfg c pacOf ptr).getLsbD i)
          else (insertedPAC cfg c pacOf ptr).getLsbD i)
      else if c.ext.getLsbD i then c.sel
      else ptr.getLsbD i := by
  have hplaced : addPAC cfg c pacOf ptr =
      fillBits (if cfg.featPAuth2 then ptr ^^^ (insertedPAC cfg c pacOf ptr &&& c.field)
        else (ptr &&& ~~~c.field) ||| (insertedPAC cfg c pacOf ptr &&& c.field)) (c.ext &&& ~~~c.field) c.sel := rfl
  rw [hplaced, getLsbD_fillBits _ _ _ _ hi, BitVec.getLsbD_and, BitVec.getLsbD_not, decide_eq_true hi, Bool.true_and]
  have hkept : c.field.getLsbD i = false → (if cfg.featPAuth2 then ptr ^^^ (insertedPAC cfg c pacOf ptr &&& c.field)
      else (ptr &&& ~~~c.field) ||| (insertedPAC cfg c pacOf ptr &&& c.field)).getLsbD i = ptr.getLsbD i := by
    intro hfield
    split
    · rw [BitVec.getLsbD_xor, BitVec.getLsbD_and, hfield, Bool.and_false, Bool.xor_false]
    · simp [hfield, hi, -BitVec.getLsbD_eq_getElem]
  cases hfield : c.field.getLsbD i with
  | true =>
    rw [Bool.not_true, Bool.and_false, if_neg Bool.false_ne_true, if_pos rfl]
    split
    · rw [BitVec.getLsbD_xor, BitVec.getLsbD_and, hfield, Bool.and_true]
    · simp [hfield, -BitVec.getLsbD_eq_getElem]
  | false => rw [Bool.not_false, Bool.and_true, if_neg Bool.false_ne_true, hkept hfield]

/-- Settles O27: the fields of the context, and AddPAC bit by bit. -/
theorem signedPointerBits : Obligations.SignedPointerBits := by
  refine ⟨fun s ptr isInstr inserting sel range b hsel hrange hb => ?_, fun cfg c pacOf ptr plain pac hplain hcanonical
    hnonCanonical i hi => ?_⟩
  · have hbottom : (s.pacContext ptr isInstr inserting).bottom = b := by rw [hb, hsel]; rfl
    have htag : (s.pacContext ptr isInstr inserting).tbi = s.tagUsed range isInstr := by rw [hrange]; rfl
    refine ⟨hbottom, htag, fun hle => ?_⟩
    have hfield : (s.pacContext ptr isInstr inserting).field =
        pacFieldMask b (s.tagUsed range isInstr) (s.latUsed range) s.singleRange := by
      rw [field_of_le (by omega), hbottom, htag, hrange]
      rfl
    refine ⟨?_, hfield, ?_⟩
    · rw [sel_of_le (by omega), hsel]
    · rw [ext_of_le (by omega), hfield]
  · have hpac : pac = insertedPAC cfg c pacOf ptr := by
      rw [eq_extend hplain] at hcanonical hnonCanonical
      by_cases hc : c.Canonical ptr
      · rw [insertedPAC_of_canonical hc, hcanonical hc]
      · rw [insertedPAC_of_not_canonical hc, hnonCanonical hc]
    rw [hpac]
    exact getLsbD_addPAC cfg c pacOf ptr hi

end Sys2Proof.Machine
end

section
/-! Family 40_pac_field_and_functions.md, the check of a PAC: Auth without and with FEAT_PAuth2 (O29, O30), what
Authenticate and Sign give (O31), and the bits that no PAC operation changes (O32). -/

namespace Sys2Proof.Machine

open Sys2Proof

/-! ## Auth -/

section Auth

variable {cfg : Config} {c : PacContext} {pacOf : Word → Word} {keyNumber : Bool} {ptr : Word}

/-- Without FEAT_PAuth2 a PAC is correct when it agrees with the pointer on the field (R119). -/
theorem auth_of_field_eq (hfeature : cfg.featPAuth2 = false)
    (h : ∀ i, i < 64 → c.field.getLsbD i = true → (pacOf (c.extend ptr)).getLsbD i = ptr.getLsbD i) :
    auth cfg c pacOf keyNumber ptr = .correct (c.extend ptr) := by
  simp only [auth, hfeature, Bool.false_eq_true, if_false]
  exact if_pos ((and_eq_and_iff _ _ _).mpr h)

theorem auth_of_field_ne (hfeature : cfg.featPAuth2 = false)
    (h : ¬ ∀ i, i < 64 → c.field.getLsbD i = true → (pacOf (c.extend ptr)).getLsbD i = ptr.getLsbD i) :
    auth cfg c pacOf keyNumber ptr = .incorrect (errorCode c keyNumber (c.extend ptr)) := by
  simp only [auth, hfeature, Bool.false_eq_true, if_false]
  exact if_neg fun heq => h ((and_eq_and_iff _ _ _).mp heq)

/-- The pointer with its computed PAC exclusive-ORed into the field (R120). -/
def unsigned (c : PacContext) (pacOf : Word → Word) (ptr : Word) : Word := ptr ^^^ (pacOf (c.extend ptr) &&& c.field)

theorem getLsbD_unsigned (c : PacContext) (pacOf : Word → Word) (ptr : Word) (i : Nat) :
    (unsigned c pacOf ptr).getLsbD i =
      xor (ptr.getLsbD i) (c.field.getLsbD i && (pacOf (c.extend ptr)).getLsbD i) := by
  rw [unsigned, BitVec.getLsbD_xor, BitVec.getLsbD_and, Bool.and_comm]

/-- Every bit of the field is the selection bit. -/
theorem field_eq_sel_iff (c : PacContext) (w : Word) :
    w &&& c.field = replicateBit c.sel &&& c.field ↔
      ∀ i, i < 64 → c.field.getLsbD i = true → w.getLsbD i = c.sel := by
  refine (and_eq_and_iff _ _ _).trans (forall₂_congr fun i hi => ?_)
  rw [getLsbD_replicateBit, decide_eq_true hi, Bool.and_true]

/-- With FEAT_PAuth2 a PAC is correct when the exclusive OR leaves the selection bit in the field (R120). -/
theorem auth_of_unsigned_eq_sel (hfeature : cfg.featPAuth2 = true)
    (h : ∀ i, i < 64 → c.field.getLsbD i = true → (unsigned c pacOf ptr).getLsbD i = c.sel) :
    auth cfg c pacOf keyNumber ptr = .correct (unsigned c pacOf ptr) := by
  simp only [auth, hfeature, if_true]
  exact if_pos ((field_eq_sel_iff _ _).mpr h)

theorem auth_of_unsigned_ne_sel (hfeature : cfg.featPAuth2 = true)
    (h : ¬ ∀ i, i < 64 → c.field.getLsbD i = true → (unsigned c pacOf ptr).getLsbD i = c.sel) :
    auth cfg c pacOf keyNumber ptr = .incorrect (unsigned c pacOf ptr) := by
  simp only [auth, hfeature, if_true]
  exact if_neg fun heq => h ((field_eq_sel_iff _ _).mp heq)

/-- A correct PAC is replaced with the extension bits, or exclusive-ORed out of the field. -/
theorem auth_correct {p : Word} (h : auth cfg c pacOf keyNumber ptr = .correct p) :
    p = c.extend ptr ∨ p = unsigned c pacOf ptr := by
  simp only [auth] at h
  split at h
  · split at h
    · exact .inr (AuthResult.correct.inj h).symm
    · cases h
  · split at h
    · exact .inl (AuthResult.correct.inj h).symm
    · cases h

end Auth

/-- Settles O29. -/
theorem authenticationWithoutPAuth2 : Obligations.AuthenticationWithoutPAuth2 := by
  intro cfg c pacOf b ptr plain hfeature hplain
  rw [eq_extend hplain]
  exact ⟨auth_of_field_eq hfeature, fun hne =>
    ⟨_, auth_of_field_ne hfeature hne, fun i hi => getLsbD_errorCode c b (c.extend ptr) i hi⟩⟩

/-- Settles O30. -/
theorem authenticationWithPAuth2 : Obligations.AuthenticationWithPAuth2 := by
  intro cfg c pacOf b ptr plain result hfeature hplain hresult
  obtain rfl : result = unsigned c pacOf ptr := eq_of_bits fun i hi => by
    rw [hresult i hi, getLsbD_unsigned, eq_extend hplain]
  exact ⟨auth_of_unsigned_eq_sel hfeature, auth_of_unsigned_ne_sel hfeature⟩

/-! ## Authenticate and Sign -/

section Outcomes

variable {s : State} {k : KeyName}

theorem sign_of_disabled (h : s.enabled k = false) (ptr : Word) (m : Modifiers) : s.sign k ptr m = .ok ptr := by
  rw [State.sign, h, if_neg Bool.false_ne_true]

theorem sign_of_trapped {l : CtlLevel} (henabled : s.enabled k = true) (htrap : s.trapPAC = some l) (ptr : Word)
    (m : Modifiers) : s.sign k ptr m = .raised (.trap l) := by
  rw [State.sign, if_pos henabled, htrap]

theorem sign_of_acts (h : s.Acts k) (ptr : Word) (m : Modifiers) :
    s.sign k ptr m = .ok (addPAC s.cfg (s.pacContext ptr k.isInstr true) (s.pacFor k m) ptr) := by
  obtain ⟨henabled, htrap⟩ := h
  rw [State.sign, if_pos henabled, htrap]

theorem authenticate_of_disabled (h : s.enabled k = false) (ptr : Word) (m : Modifiers) (combined : Bool) :
    s.authenticate k ptr m combined = .ok ptr := by
  rw [State.authenticate, h, if_neg Bool.false_ne_true]

theorem authenticate_of_trapped {l : CtlLevel} (henabled : s.enabled k = true) (htrap : s.trapPAC = some l)
    (ptr : Word) (m : Modifiers) (combined : Bool) : s.authenticate k ptr m combined = .raised (.trap l) := by
  rw [State.authenticate, if_pos henabled, htrap]

theorem authenticate_of_correct {ptr p : Word} {m : Modifiers} (h : s.Acts k) (hcheck : s.checkPAC k ptr m = .correct p)
    (combined : Bool) : s.authenticate k ptr m combined = .ok p := by
  obtain ⟨henabled, htrap⟩ := h
  rw [State.authenticate, if_pos henabled, htrap, hcheck]

/-- An incorrect PAC raises a PAC Fail exception where a failure raises, else its VA made non-canonical goes on (R245). -/
theorem authenticate_of_incorrect {ptr p : Word} {m : Modifiers} (h : s.Acts k)
    (hcheck : s.checkPAC k ptr m = .incorrect p) (combined : Bool) :
    s.authenticate k ptr m combined =
      if failRaises s.cfg combined then .raised (.pacFail k.failCode) else .ok p := by
  obtain ⟨henabled, htrap⟩ := h
  rw [State.authenticate, if_pos henabled, htrap, hcheck]

end Outcomes

theorem featFPACCOMBINE_iff {cfg : Config} : cfg.featFPACCOMBINE = true ↔ cfg.level = .fpacCombine := by
  unfold Config.featFPACCOMBINE
  cases cfg.level <;> decide

theorem featFPAC_iff {cfg : Config} : cfg.featFPAC = true ↔ cfg.level = .fpac ∨ cfg.level = .fpacCombine := by
  unfold Config.featFPAC
  cases cfg.level <;> decide

theorem featFPAC_of_featFPACCOMBINE {cfg : Config} (h : cfg.featFPACCOMBINE = true) : cfg.featFPAC = true :=
  featFPAC_iff.mpr (.inr (featFPACCOMBINE_iff.mp h))

theorem featPAuth2_of_featFPAC {cfg : Config} (h : cfg.featFPAC = true) : cfg.featPAuth2 = true := by
  rcases featFPAC_iff.mp h with hlevel | hlevel
  · rw [Config.featPAuth2, hlevel]
  · rw [Config.featPAuth2, hlevel]

/-- Settles O31, by the enable, the trap and the check; the check is that of Auth but for the open failure value, which
differs from the pointer in the field only (log 6). -/
theorem authenticateOutcomes : Obligations.AuthenticateOutcomes := by
  refine ⟨fun s k ptr m combined => ⟨fun hoff => authenticate_of_disabled hoff ptr m combined,
      fun hon l htrap => authenticate_of_trapped hon htrap ptr m combined,
      fun hacts p hcheck => authenticate_of_correct hacts hcheck combined,
      fun hacts p hcheck => ⟨fun hquiet => ?_, fun hraises => ?_⟩⟩,
    ?_,
    fun s k ptr m => ⟨fun hoff => sign_of_disabled hoff ptr m, fun hon l htrap => sign_of_trapped hon htrap ptr m,
      fun hacts => sign_of_acts hacts ptr m⟩,
    fun cfg => ⟨featFPAC_of_featFPACCOMBINE, featPAuth2_of_featFPAC⟩⟩
  · have hfail : failRaises s.cfg combined = false := hquiet
    rw [authenticate_of_incorrect hacts hcheck, hfail, if_neg Bool.false_ne_true]
  · exact (authenticate_of_incorrect hacts hcheck combined).trans (if_pos hraises)
  · rintro s k ptr m c found rfl rfl
    refine ⟨fun p => checkPAC_correct, fun r hfound => ⟨fun hle => ?_, fun habove => ?_⟩⟩
    · exact checkPAC_incorrect.mpr ⟨r, hfound, (if_pos hle).symm⟩
    · exact ⟨s.openFailure ptr k.isInstr, checkPAC_incorrect.mpr ⟨r, hfound, (if_neg (by omega)).symm⟩,
        fun i hi hfield => getLsbD_openFailure s ptr k.isInstr i hi hfield⟩

/-! ## The bits that no PAC operation changes -/

/-- The PAC field lies within the positions of the extension bits. -/
theorem field_sub_ext {s : State} {p : Word} {isInstr ins : Bool} {i : Nat}
    (h : (s.pacContext p isInstr ins).field.getLsbD i = true) : (s.pacContext p isInstr ins).ext.getLsbD i = true := by
  have hext : (s.pacContext p isInstr ins).ext =
      if (s.pacContext p isInstr ins).bottom ≤ 55 then (s.pacContext p isInstr ins).field ||| 1#64 <<< 55
      else (s.pacContext p isInstr ins).field := rfl
  rw [hext]
  split
  · rw [BitVec.getLsbD_or, h, Bool.true_or]
  · exact h

/-- Bit `i` belongs to the address below bottom_PAC_bit or to the tag byte (R101, R105). -/
def PacContext.IsAddressBit (c : PacContext) (i : Nat) : Prop := i < c.bottom ∨ (56 ≤ i ∧ c.tbi = true)

/-- An address bit holds no extension bit. -/
theorem ext_of_isAddressBit {s : State} {p : Word} {isInstr ins : Bool} {i : Nat} (hi : i < 64)
    (h : (s.pacContext p isInstr ins).IsAddressBit i) : (s.pacContext p isInstr ins).ext.getLsbD i = false := by
  by_contra hext
  rw [Bool.not_eq_false] at hext
  obtain ⟨hbottom, htag⟩ := ext_within hi hext
  rcases h with hbelow | ⟨htop, htbi⟩
  · omega
  · have := htag htbi
    omega

/-- An address bit holds no PAC. -/
theorem field_of_isAddressBit {s : State} {p : Word} {isInstr ins : Bool} {i : Nat} (hi : i < 64)
    (h : (s.pacContext p isInstr ins).IsAddressBit i) : (s.pacContext p isInstr ins).field.getLsbD i = false := by
  by_contra hfield
  rw [Bool.not_eq_false] at hfield
  exact Bool.false_ne_true ((ext_of_isAddressBit hi h).symm.trans (field_sub_ext hfield))

/-- A correct PAC changes the extension bits only. -/
theorem getLsbD_auth_correct {cfg : Config} {c : PacContext} {pacOf : Word → Word} {keyNumber : Bool} {ptr p : Word}
    (h : auth cfg c pacOf keyNumber ptr = .correct p) {i : Nat} (hi : i < 64) (hext : c.ext.getLsbD i = false)
    (hfield : c.field.getLsbD i = false) : p.getLsbD i = ptr.getLsbD i := by
  rcases auth_correct h with rfl | rfl
  · rw [getLsbD_extend _ _ _ hi, hext, if_neg Bool.false_ne_true]
  · rw [getLsbD_unsigned, hfield, Bool.false_and, Bool.xor_false]

/-- Up to bottom_PAC_bit 52 the error code lies in no address bit (R119). -/
theorem getLsbD_errorCode_of_isAddressBit {c : PacContext} (hle : c.bottom ≤ 52) (keyNumber : Bool) (w : Word) {i : Nat}
    (hi : i < 64) (h : c.IsAddressBit i) : (errorCode c keyNumber w).getLsbD i = w.getLsbD i := by
  rw [getLsbD_errorCode _ _ _ _ hi]
  unfold PacContext.IsAddressBit at h
  cases htag : c.tbi with
  | true => rw [if_neg (by rw [if_pos rfl]; omega), if_neg (by rw [if_pos rfl]; omega)]
  | false =>
    rw [htag] at h
    have hbelow : i < c.bottom := by simpa using h
    rw [if_neg (by rw [if_neg Bool.false_ne_true]; omega), if_neg (by rw [if_neg Bool.false_ne_true]; omega)]

/-- A check of a PAC changes no address bit, whatever it finds. -/
theorem getLsbD_checkPAC {s : State} {k : KeyName} {ptr p : Word} {m : Modifiers}
    (h : s.checkPAC k ptr m = .correct p ∨ s.checkPAC k ptr m = .incorrect p) {i : Nat} (hi : i < 64)
    (haddress : (s.pacContext ptr k.isInstr false).IsAddressBit i) : p.getLsbD i = ptr.getLsbD i := by
  have hext := ext_of_isAddressBit hi haddress
  have hfield := field_of_isAddressBit hi haddress
  rcases h with hcorrect | hincorrect
  · exact getLsbD_auth_correct (checkPAC_correct.mp hcorrect) hi hext hfield
  · obtain ⟨q, hauth, rfl⟩ := checkPAC_incorrect.mp hincorrect
    split
    · next hle =>
      cases hfeature : s.cfg.featPAuth2 with
      | true => exact (auth_incorrect_of_pauth2 hfeature hauth).1 i hfield
      | false =>
        rw [auth_incorrect_of_not_pauth2 hfeature hauth, getLsbD_errorCode_of_isAddressBit hle _ _ hi haddress,
          getLsbD_extend _ _ _ hi, hext, if_neg Bool.false_ne_true]
    · exact getLsbD_openFailure s ptr k.isInstr i hi hfield

/-- Settles O32: an address bit holds neither PAC nor extension bit nor error code. -/
theorem pacOperationsKeepAddressBits : Obligations.PacOperationsKeepAddressBits := by
  intro s k ptr v m comb i hi
  refine ⟨fun hsign haddress => ?_, fun haddress => ⟨fun hauthenticate => ?_, ?_⟩⟩
  · rcases sign_ok hsign with ⟨_, rfl⟩ | ⟨_, _, rfl⟩
    · rfl
    · rw [getLsbD_addPAC _ _ _ _ hi, field_of_isAddressBit hi haddress, ext_of_isAddressBit hi haddress,
        if_neg Bool.false_ne_true, if_neg Bool.false_ne_true]
  · rcases authenticate_ok hauthenticate with ⟨_, rfl⟩ | ⟨_, _, hcorrect⟩ | ⟨_, _, hincorrect, _⟩
    · rfl
    · exact getLsbD_checkPAC (.inl hcorrect) hi haddress
    · exact getLsbD_checkPAC (.inr hincorrect) hi haddress
  · rw [State.strip, getLsbD_extend _ _ _ hi, ext_of_isAddressBit hi haddress, if_neg Bool.false_ne_true]

end Sys2Proof.Machine
end

section
/-! Family 40_pac_field_and_functions.md, removing a PAC: the stripped pointer bit by bit (O35), and a signed canonical
pointer authenticates and strips to itself (O34), also at the machine (O39). -/

namespace Sys2Proof.Machine

open Sys2Proof

/-! ## The stripped pointer -/

/-- Settles O35: a strip copies bit 55 to the bits that the canonical test looks at, which are those from bottom_PAC_bit
to 55 and the upper ones that no tag holds. -/
theorem strippedPointerBits : Obligations.StrippedPointerBits := by
  rintro s ptr isInstr b rfl hb i hi
  have hchecked := checkedBits_iff s ptr isInstr hi
  rw [getLsbD_strip_of_le hb hi]
  by_cases hlow : s.bottomBit (s.rangeOf ptr) ≤ i ∧ i ≤ 55
  · rw [if_pos hlow, if_pos]
    rw [hchecked]
    split
    · exact hlow
    · split
      · exact .inr hlow
      · exact hlow.1
  · rw [if_neg hlow]
    cases htag : s.tagUsed (s.rangeOf ptr) isInstr with
    | true =>
      rw [htag, if_pos rfl] at hchecked
      rw [if_neg (hchecked.not.mpr hlow), if_pos (.inr rfl)]
    | false =>
      rw [htag, if_neg Bool.false_ne_true] at hchecked
      by_cases htop : i < 56
      · have hunchecked : ¬ (s.checkedBits ptr isInstr).getLsbD i = true := by
          rw [hchecked]
          split <;> omega
        rw [if_neg hunchecked, if_pos (.inl htop)]
      · have hupper : (s.checkedBits ptr isInstr).getLsbD i = true ↔
            ¬ (s.latUsed (s.rangeOf ptr) = true ∧ i < 60) := by
          rw [hchecked]
          split
          · next hlat => simp only [hlat, true_and]; omega
          · next hlat => exact iff_of_true (by omega) fun h => hlat h.1
        rw [if_neg (not_or.mpr ⟨htop, Bool.false_ne_true⟩)]
        simp only [hupper, ite_not]

/-! ## A canonical pointer -/

/-- The bits of a canonical pointer at the positions of the extension bits are equal (R117). -/
theorem PacContext.Canonical.bits_eq {c : PacContext} {p : Word} (h : c.Canonical p) {i j : Nat} (hi : i < 64)
    (hj : j < 64) (hexti : c.ext.getLsbD i = true) (hextj : c.ext.getLsbD j = true) : p.getLsbD i = p.getLsbD j := by
  rcases h with hzero | hones
  · have hbits := (and_eq_zero_iff _ _).mp hzero
    rw [hbits i hi hexti, hbits j hj hextj]
  · have hbits := (and_eq_mask_iff _ _).mp hones
    rw [hbits i hi hexti, hbits j hj hextj]

/-- A canonical pointer whose bit 55 is the extension bit is its own extended pointer. -/
theorem extend_of_canonical {c : PacContext} {p : Word} (h : c.Canonical p) (h55 : c.ext.getLsbD 55 = true)
    (hsel : c.sel = p.getLsbD 55) : c.extend p = p := by
  refine eq_of_bits fun i hi => ?_
  rw [getLsbD_extend _ _ _ hi]
  split
  · next hext => rw [hsel, h.bits_eq hi (by decide) hext h55]
  · rfl

/-! ## A signed pointer in its own context -/

section Signed

variable {cfg : Config} {c : PacContext} {pacOf : Word → Word} {p : Word}
  (hsub : ∀ i, c.field.getLsbD i = true → c.ext.getLsbD i = true)
include hsub

/-- AddPAC changes the positions of the extension bits only. -/
theorem extend_addPAC : c.extend (addPAC cfg c pacOf p) = c.extend p := by
  refine eq_extend fun i hi => ?_
  rw [getLsbD_extend _ _ _ hi]
  split
  · rfl
  · next hext =>
    rw [getLsbD_addPAC _ _ _ _ hi, if_neg fun hfield => hext (hsub i hfield), if_neg hext]

/-- Auth finds the PAC of a signed canonical pointer correct and gives the pointer (R125). -/
theorem auth_addPAC (hcanonical : c.Canonical p) (hplain : c.extend p = p) (keyNumber : Bool) :
    auth cfg c pacOf keyNumber (addPAC cfg c pacOf p) = .correct p := by
  have hextend : c.extend (addPAC cfg c pacOf p) = p := (extend_addPAC hsub).trans hplain
  have hpac : insertedPAC cfg c pacOf p = pacOf p := by rw [insertedPAC_of_canonical hcanonical, hplain]
  have hsel : ∀ i, i < 64 → c.ext.getLsbD i = true → p.getLsbD i = c.sel := fun i hi hext => by
    rw [← hplain, getLsbD_extend _ _ _ hi, if_pos hext]
  cases hfeature : cfg.featPAuth2 with
  | false =>
    rw [auth_of_field_eq hfeature, hextend]
    intro i hi hfield
    rw [hextend, getLsbD_addPAC _ _ _ _ hi, if_pos hfield, hfeature, if_neg Bool.false_ne_true, hpac]
  | true =>
    have hunsigned : unsigned c pacOf (addPAC cfg c pacOf p) = p := by
      refine eq_of_bits fun i hi => ?_
      rw [getLsbD_unsigned, hextend, getLsbD_addPAC _ _ _ _ hi, hpac, hfeature, if_pos rfl]
      split
      · next hfield => rw [hfield, Bool.true_and, Bool.xor_assoc, Bool.xor_self, Bool.xor_false]
      · next hfield =>
        rw [Bool.eq_false_of_not_eq_true hfield, Bool.false_and, Bool.xor_false]
        split
        · next hext => exact (hsel i hi hext).symm
        · rfl
    rw [auth_of_unsigned_eq_sel hfeature, hunsigned]
    intro i hi hfield
    rw [hunsigned, hsel i hi (hsub i hfield)]

end Signed

/-! ## The context of a signed pointer -/

/-- Where an insertion selects with bit 63, no range is tagged, so up to bottom_PAC_bit 52 bit 63 is in the PAC field. -/
theorem ext_bit63_of_untagged {s : State} {p : Word} {isInstr : Bool} (h : s.anyTagUsed isInstr = false)
    (hb : (s.pacContext p isInstr true).bottom ≤ 52) : (s.pacContext p isInstr true).ext.getLsbD 63 = true := by
  have htag : (s.pacContext p isInstr true).tbi = false := by
    obtain ⟨hlower, hupper⟩ := anyTagUsed_eq_false_iff.mp h
    show s.tagUsed (!s.singleRange && p.getLsbD 55) isInstr = false
    cases hrange : (!s.singleRange && p.getLsbD 55) with
    | false => exact hlower
    | true =>
      rw [Bool.and_eq_true, Bool.not_eq_true'] at hrange
      exact hupper.resolve_left (by rw [hrange.1]; exact Bool.false_ne_true)
  refine field_sub_ext ?_
  rw [field_of_le hb, htag, pacFieldMask_iff_of_le hb (by decide)]
  exact .inr ⟨rfl, by split <;> decide⟩

/-- A canonical pointer is signed with bit 55 as its selection bit, whichever bit selects (R102, R125). -/
theorem selectBit_of_canonical {s : State} {p : Word} {isInstr : Bool}
    (hb : (s.pacContext p isInstr true).bottom ≤ 52) (hcanonical : (s.pacContext p isInstr true).Canonical p) :
    s.selectBit p isInstr true = p.getLsbD 55 := by
  cases hconst : s.cfg.constPacField with
  | true => exact selectBit_of_constPacField hconst p isInstr true
  | false =>
    cases htag : s.anyTagUsed isInstr with
    | true => exact selectBit_of_anyTagUsed htag p true
    | false =>
      rw [selectBit_of_untagged hconst htag]
      exact hcanonical.bits_eq (by decide) (by decide) (ext_bit63_of_untagged htag hb)
        (by rw [getLsbD_ext (by omega) 55 (by decide), decide_eq_true rfl, Bool.or_true])

/-- Insertion and authentication of a pointer that selects with bit 55 have one context. -/
theorem pacContext_true_eq_false {s : State} {p : Word} {isInstr : Bool}
    (h : s.selectBit p isInstr true = p.getLsbD 55) : s.pacContext p isInstr true = s.pacContext p isInstr false := by
  simp only [State.pacContext, h, selectBit_false]

/-- Up to bottom_PAC_bit 52 a pointer has one context in states with the same controls. -/
theorem SamePointerAuth.pacContext_eq {s t : State} (h : SamePointerAuth s t) {p : Word} {isInstr : Bool}
    (hb : s.bottomBit (s.rangeOf p) ≤ 52) : t.pacContext p isInstr false = s.pacContext p isInstr false := by
  obtain ⟨hsingle, _, _, htag, hlat, hbottom⟩ := h.reads
  have hwide : decide (52 < s.bottomBit (!s.singleRange && p.getLsbD 55)) = false := decide_eq_false (Nat.not_lt.mpr hb)
  simp only [State.pacContext, selectBit_false, State.rangeOf, hsingle, htag, hlat, hbottom, hwide, Bool.and_false,
    Bool.false_eq_true, if_false]

theorem SamePointerAuth.pacFor_eq {s t : State} (h : SamePointerAuth s t) (k : KeyName) (m : Modifiers) :
    t.pacFor k m = s.pacFor k m := by
  rw [State.pacFor, State.pacFor, h.cfg, h.keys]

theorem SamePointerAuth.acts {s t : State} (h : SamePointerAuth s t) {k : KeyName} (hacts : s.Acts k) : t.Acts k := by
  obtain ⟨_, htrap, henabled, _⟩ := h.reads
  obtain ⟨hon, hfree⟩ := hacts
  exact ⟨(henabled k).trans hon, htrap.trans hfree⟩

/-- What signing a canonical pointer gives is of the pointer's own context, in which it extends to the pointer. -/
theorem signed_context {s t : State} (h : SamePointerAuth s t) {p : Word} {isInstr : Bool} (pacOf : Word → Word)
    (hb : (s.pacContext p isInstr true).bottom ≤ 52) (hcanonical : (s.pacContext p isInstr true).Canonical p) :
    t.pacContext (addPAC s.cfg (s.pacContext p isInstr true) pacOf p) isInstr false = s.pacContext p isInstr true ∧
      (s.pacContext p isInstr true).extend p = p := by
  have hselect := selectBit_of_canonical hb hcanonical
  have hsel : (s.pacContext p isInstr true).sel = p.getLsbD 55 := (sel_of_le hb).trans hselect
  have hext55 : (s.pacContext p isInstr true).ext.getLsbD 55 = true := by
    rw [getLsbD_ext (by omega) 55 (by decide), decide_eq_true rfl, Bool.or_true]
  have hcontext := pacContext_true_eq_false hselect
  have hbottom : s.bottomBit (s.rangeOf p) ≤ 52 := by rwa [← bottom_false s p isInstr, ← hcontext]
  have hfield55 : (s.pacContext p isInstr true).field.getLsbD 55 = false := by
    rw [hcontext]
    exact field_bit55_of_le hbottom
  have hq55 : (addPAC s.cfg (s.pacContext p isInstr true) pacOf p).getLsbD 55 = p.getLsbD 55 := by
    rw [getLsbD_addPAC _ _ _ _ (by decide), hfield55, if_neg Bool.false_ne_true, if_pos hext55, hsel]
  refine ⟨?_, extend_of_canonical hcanonical hext55 hsel⟩
  rw [pacContext_congr hq55, h.pacContext_eq hbottom, hcontext]

/-- Settles O34: the signed pointer has the context it was signed in, where Auth and Strip give the pointer back. -/
theorem signedPointerAuthenticates : Obligations.SignedPointerAuthenticates := by
  intro s t k ptr q m comb hsame henabled hb hcanonical hsign
  rcases sign_ok hsign with ⟨hoff, _⟩ | ⟨_, htrap, rfl⟩
  · rw [henabled] at hoff
    cases hoff
  · obtain ⟨hcontext, hplain⟩ := signed_context hsame (s.pacFor k m) hb hcanonical
    refine ⟨authenticate_of_correct (hsame.acts ⟨henabled, htrap⟩) (checkPAC_correct.mpr ?_) comb, ?_⟩
    · rw [hcontext, hsame.pacFor_eq, hsame.cfg]
      exact auth_addPAC (fun i => field_sub_ext) hcanonical hplain k.number
    · rw [State.strip, hcontext, extend_addPAC fun i => field_sub_ext, hplain]

/-! ## At the machine -/

/-- An insertion that acts writes the signed pointer. -/
theorem exec_insert_of_acts {i : Instr} {s : State} {k : KeyName} {d : RegNum} {m : Modifiers}
    (hi : insertOperands s i = some (k, d, m)) (h : s.Acts k) :
    exec i s = .next (s.setXzr d
      (addPAC s.cfg (s.pacContext (s.xzr d) k.isInstr true) (s.pacFor k m) (s.xzr d))).retire := by
  rw [exec_insert hi, insertPac, sign_of_acts h]
  rfl

/-- An AUT* instruction whose Authenticate gives a pointer writes it. -/
theorem exec_authenticate_of_ok {i : Instr} {s : State} {k : KeyName} {d : RegNum} {m : Modifiers} {p : Word}
    (hi : authenticateOperands s i = some (k, d, m)) (h : s.authenticate k (s.xzr d) m false = .ok p) :
    exec i s = .next (s.setXzr d p).retire := by
  rw [exec_authenticate hi, authenticatePac, h]
  rfl

/-- An instruction that ends after writing a register keeps what pointer authentication reads. -/
theorem samePointerAuth_retire (s : State) (d : RegNum) (v : Word) : SamePointerAuth s (s.setXzr d v).retire :=
  ⟨rfl, rfl, rfl, rfl, rfl, rfl, rfl⟩

/-- Writing its first value back to a register that was written restores every register. -/
theorem registersKept_restore (s : State) (d : RegNum) (v : Word) :
    RegistersKept s (((s.setXzr d v).retire.setXzr d (s.xzr d)).retire) := by
  intro r
  rw [xzr_retire]
  by_cases hr : r = d
  · subst hr
    by_cases h31 : r = 31#5
    · rw [h31, xzr_31, xzr_31]
    · rw [xzr_setXzr_same _ _ _ h31]
  · rw [xzr_setXzr_other _ _ _ _ hr, xzr_retire, xzr_setXzr_other _ _ _ _ hr]

/-- The register that received a signed canonical pointer authenticates to the pointer right after. -/
theorem authenticate_after_sign {s : State} {k : KeyName} {d : RegNum} {m : Modifiers} {q : Word} (hd : d ≠ 31#5)
    (henabled : s.enabled k = true) (hb : (s.pacContext (s.xzr d) k.isInstr true).bottom ≤ 52)
    (hcanonical : (s.pacContext (s.xzr d) k.isInstr true).Canonical (s.xzr d)) (hsign : s.sign k (s.xzr d) m = .ok q) :
    (s.setXzr d q).retire.authenticate k ((s.setXzr d q).retire.xzr d) m false = .ok (s.xzr d) := by
  obtain ⟨hauthenticate, _⟩ := signedPointerAuthenticates s _ k (s.xzr d) q m false (samePointerAuth_retire s d q)
    henabled hb hcanonical hsign
  rwa [xzr_retire, xzr_setXzr_same s d q hd]

/-- Settles O39: the AUT* instruction finds the pointer that O34 says it authenticates, and writes the first one back. -/
theorem insertThenAuthenticateRestoresThePointer : Obligations.InsertThenAuthenticateRestoresThePointer := by
  intro i s t k d m hi hacts hb hcanonical hexec
  rw [exec_insert_of_acts hi hacts] at hexec
  injection hexec with hexec
  subst hexec
  refine ⟨fun hd j hj => ?_, fun hd r => ?_⟩
  · have hauthenticate := authenticate_after_sign hd hacts.1 hb hcanonical (sign_of_acts hacts (s.xzr d) m)
    refine ⟨_, exec_authenticate_of_ok hj hauthenticate, registersKept_restore s d _, rfl, ?_⟩
    show s.pc + 4#64 + 4#64 = s.pc + 8#64
    rw [BitVec.add_assoc]
    rfl
  · subst hd
    by_cases hr : r = 31#5
    · rw [hr, xzr_31, xzr_31]
    · rw [xzr_retire, xzr_setXzr_other _ _ _ _ hr]

end Sys2Proof.Machine
end

section
/-! Family 40_pac_field_and_functions.md, the functions in the instructions: a disabled key (O38), PACGA (O44, O18) and
trapped instructions (O60). -/

namespace Sys2Proof.Machine

open Sys2Proof

/-! ## A disabled key -/

theorem writeX_readX (x : Vector Word 31) (i : RegNum) : writeX x i (readX x i) = x := by
  unfold writeX readX
  split
  · exact Vector.set_getElem_self _
  · rfl

/-- Writing back the value of a register changes nothing. -/
@[simp] theorem setXzr_xzr (s : State) (i : RegNum) : s.setXzr i (s.xzr i) = s := by
  rw [State.setXzr, State.xzr, writeX_readX]

/-- Settles O38: with its key disabled either class writes the pointer register back. -/
theorem disabledKeyMakesANop : Obligations.DisabledKeyMakesANop := by
  intro i s k d m hi hdisabled
  rw [exec_nop_eq_retire]
  rcases hi with hinsert | hauthenticate
  · rw [exec_insert hinsert, insertPac, sign_of_disabled hdisabled, Res.finish, setXzr_xzr]
  · rw [exec_authenticate hauthenticate, authenticatePac, authenticate_of_disabled hdisabled, Res.finish, setXzr_xzr]

/-! ## PACGA -/

theorem exec_pacga (d n m : RegNum) (s : State) :
    exec (.pacga d n m) s = (s.addPACGA (s.xzr n) (s.xsp m)).finish s (fun v => (s.setXzr d v).retire) := rfl

theorem addPACGA_of_untrapped {s : State} (h : s.trapPAC = none) (a b : Word) :
    s.addPACGA a b = .ok (genericPAC (Config.computePACG s.cfg.generic a b s.keys.genericKey)) := by
  rw [State.addPACGA, h]

theorem addPACGA_of_trapped {s : State} {l : CtlLevel} (h : s.trapPAC = some l) (a b : Word) :
    s.addPACGA a b = .raised (.trap l) := by
  rw [State.addPACGA, h]

theorem exec_pacga_of_untrapped {s : State} (h : s.trapPAC = none) (d n m : RegNum) :
    exec (.pacga d n m) s = .next (s.setXzr d
      (genericPAC (Config.computePACG s.cfg.generic (s.xzr n) (s.xsp m) s.keys.genericKey))).retire := by
  rw [exec_pacga, addPACGA_of_untrapped h]
  rfl

theorem exec_pacga_of_trapped {s : State} {l : CtlLevel} (h : s.trapPAC = some l) (d n m : RegNum) :
    exec (.pacga d n m) s = .next (s.takeException (.trap l)) := by
  rw [exec_pacga, addPACGA_of_trapped h]
  rfl

theorem extractLsb'_genericPAC_low (p : Word) : (genericPAC p).extractLsb' 0 32 = 0#32 := by
  rw [genericPAC, BitVec.extractLsb'_append_eq_right]

theorem extractLsb'_genericPAC_high (p : Word) : (genericPAC p).extractLsb' 32 32 = p.extractLsb' 32 32 := by
  rw [genericPAC, BitVec.extractLsb'_append_eq_left]

/-- Settles O44: the generic PAC is its upper half over zeros, and PACGA writes it. -/
theorem genericPacFillsTheUpperHalf : Obligations.GenericPacFillsTheUpperHalf := fun s d n m htrap =>
  ⟨_, _, exec_pacga_of_untrapped htrap d n m, wroteRegister_retireAt s d _ _, extractLsb'_genericPAC_low _,
    extractLsb'_genericPAC_high _⟩

/-- PACGA does the same whatever SCTLR_ELx holds (R115). -/
theorem exec_pacga_withSctlr (s : State) (sctlr : PerLevel Sctlr) (d n m : RegNum) :
    exec (.pacga d n m) { s with sctlr := sctlr } =
      mapNext (fun t => { t with sctlr := sctlr }) (exec (.pacga d n m) s) := by
  have hsame : State.trapPAC { s with sctlr := sctlr } = s.trapPAC := rfl
  cases htrap : s.trapPAC with
  | none =>
    rw [exec_pacga_of_untrapped htrap, exec_pacga_of_untrapped (hsame.trans htrap)]
    rfl
  | some l =>
    rw [exec_pacga_of_trapped htrap, exec_pacga_of_trapped (hsame.trans htrap)]
    rfl

theorem KeyName.isInstr_iff (k : KeyName) : k.isInstr = true ↔ k = .ia ∨ k = .ib := by cases k <;> decide

theorem KeyName.number_eq_false_iff (k : KeyName) : k.number = false ↔ k = .ia ∨ k = .da := by cases k <;> decide

/-- Settles O18: the four keys by their definitions, PACGA by what it reads. -/
theorem keyAndEnableSelection : Obligations.KeyAndEnableSelection := fun s =>
  ⟨rfl, rfl, rfl, rfl, rfl, rfl, rfl, rfl, rfl, fun k => ⟨k.isInstr_iff, k.number_eq_false_iff⟩,
    exec_pacga_withSctlr s, fun d n m htrap => exec_pacga_of_untrapped htrap d n m⟩

/-! ## Trapped instructions -/

section Trapped

variable {i : Instr} {s : State} {k : KeyName} {l : CtlLevel} (henabled : s.enabled k = true)
  (htrap : s.trapPAC = some l)
include henabled htrap

/-- Whatever would follow an Authenticate that is trapped, the trap is taken. -/
theorem finish_authenticate_of_trapped (ptr : Word) (m : Modifiers) (combined : Bool) (rest : Word → State) :
    (s.authenticate k ptr m combined).finish s rest = .next (s.takeException (.trap l)) := by
  rw [authenticate_of_trapped henabled htrap]
  rfl

theorem exec_insert_of_trapped {d : RegNum} {m : Modifiers} (hi : insertOperands s i = some (k, d, m)) :
    exec i s = .next (s.takeException (.trap l)) := by
  rw [exec_insert hi, insertPac, sign_of_trapped henabled htrap]
  rfl

theorem exec_return_of_trapped (hi : returnKey i = some k) (hel : s.pstate.el ≠ .el0) :
    exec i s = .next (s.takeException (.trap l)) := by
  rw [exec_return s hi, authenticatedReturn]
  cases hown : s.pstate.el with
  | el0 => exact absurd hown hel
  | el1 => exact finish_authenticate_of_trapped henabled htrap _ _ _ _
  | el2 => exact finish_authenticate_of_trapped henabled htrap _ _ _ _
  | el3 => exact finish_authenticate_of_trapped henabled htrap _ _ _ _

/-- The trap of a load comes before the check of a misaligned SP base (R248). -/
theorem loadBase_of_trapped (n : RegNum) : s.loadBase k n = .raised (.trap l) := by
  unfold State.loadBase
  split
  · rw [htrap]
  · exact authenticate_of_trapped henabled htrap _ _ _

end Trapped

/-- Settles O60, by the class of the instruction. -/
theorem trappedInstructionTakesTheTrap : Obligations.TrappedInstructionTakesTheTrap := by
  intro i s l htrap
  refine ⟨fun k huses henabled => ?_, ?_⟩
  · rcases huses with ⟨d, m, hinsert | hauthenticate | hbranch | hlink⟩ | ⟨hreturn, hel⟩ | ⟨o, hload, rfl, hoverlap⟩
    · exact exec_insert_of_trapped henabled htrap hinsert
    · rw [exec_authenticate hauthenticate]
      exact finish_authenticate_of_trapped henabled htrap _ _ _ _
    · rw [exec_branch hbranch]
      exact finish_authenticate_of_trapped henabled htrap _ _ _ _
    · rw [exec_link hlink]
      exact finish_authenticate_of_trapped henabled htrap _ _ _ _
    · exact exec_return_of_trapped henabled htrap hreturn hel
    · exact exec_load_of_base_raised hload hoverlap (loadBase_of_trapped henabled htrap o.base)
  · rintro d n m rfl
    exact exec_pacga_of_trapped htrap d n m

end Sys2Proof.Machine
end

section
/-! Family 40_pac_field_and_functions.md, the keys an instruction reads (O16): each shared operation does the same with
other values in the keys that are not enabled, and so does each instruction. -/

namespace Sys2Proof.Machine

open Sys2Proof

/-- The key registers `keys` hold the enabled keys of the state; the others may differ. -/
def EnabledKeysKept (s : State) (keys : KeyRegs) : Prop := ∀ k, s.enabled k = true → keys.key k = s.keys.key k

/-- A meaning does the same with the key registers `keys`, which it leaves as they are. -/
def SameWithKeys (s : State) (keys : KeyRegs) (meaning : State → Host.Outcome State Fault Refusal) : Prop :=
  meaning (s.withKeys keys) = mapNext (fun t => t.withKeys keys) (meaning s)

/-- The result of an operation goes on, or is taken as an exception, whatever the keys hold. -/
theorem finish_withKeys {α : Type} (s : State) (keys : KeyRegs) (r : Res α) {rest rest' : α → State}
    (h : ∀ a, rest' a = (rest a).withKeys keys) :
    r.finish (s.withKeys keys) rest' = mapNext (fun t => t.withKeys keys) (r.finish s rest) := by
  cases r with
  | ok a => exact congrArg Host.Outcome.next (h a)
  | raised e => rfl

theorem afterLoad_withKeys (s : State) (keys : KeyRegs) (t n : RegNum) (wback : Bool) (addr data : Word) :
    (s.withKeys keys).afterLoad t n wback addr data = (s.afterLoad t n wback addr data).withKeys keys := by
  cases wback with
  | false => rfl
  | true =>
    unfold State.afterLoad State.setXsp
    by_cases hsp : n = 31#5
    · rw [if_pos rfl, if_pos rfl, if_pos hsp, if_pos hsp]
      rfl
    · rw [if_pos rfl, if_pos rfl, if_neg hsp, if_neg hsp]
      rfl

/-- PACGA reads the generic key alone (R115). -/
theorem execPacga_withKeys {s : State} {keys : KeyRegs} (hgeneric : keys.genericKey = s.keys.genericKey)
    (d n m : RegNum) : SameWithKeys s keys (execPacga d n m) := by
  have hpac : ∀ a b, (s.withKeys keys).addPACGA a b = s.addPACGA a b := fun a b => by
    have hkey : (s.withKeys keys).keys.genericKey = s.keys.genericKey := hgeneric
    rw [State.addPACGA, hkey]
    rfl
  rw [SameWithKeys, execPacga, hpac]
  exact finish_withKeys s keys _ fun _ => rfl

section EnabledKeys

variable {s : State} {keys : KeyRegs} (hkeys : EnabledKeysKept s keys)
include hkeys

/-! ## The shared operations -/

theorem pacFor_withKeys {k : KeyName} (h : s.enabled k = true) (m : Modifiers) :
    (s.withKeys keys).pacFor k m = s.pacFor k m := by
  show computePAC s.cfg.method (keys.key k) m = computePAC s.cfg.method (s.keys.key k) m
  rw [hkeys k h]

theorem sign_withKeys (k : KeyName) (ptr : Word) (m : Modifiers) :
    (s.withKeys keys).sign k ptr m = s.sign k ptr m := by
  cases henabled : s.enabled k with
  | false => rw [sign_of_disabled henabled, sign_of_disabled (s := s.withKeys keys) henabled]
  | true =>
    rw [State.sign, pacFor_withKeys hkeys henabled]
    rfl

theorem checkPAC_withKeys {k : KeyName} (h : s.enabled k = true) (ptr : Word) (m : Modifiers) :
    (s.withKeys keys).checkPAC k ptr m = s.checkPAC k ptr m := by
  rw [State.checkPAC, pacFor_withKeys hkeys h]
  rfl

theorem authenticate_withKeys (k : KeyName) (ptr : Word) (m : Modifiers) (combined : Bool) :
    (s.withKeys keys).authenticate k ptr m combined = s.authenticate k ptr m combined := by
  cases henabled : s.enabled k with
  | false => rw [authenticate_of_disabled henabled, authenticate_of_disabled (s := s.withKeys keys) henabled]
  | true =>
    rw [State.authenticate, checkPAC_withKeys hkeys henabled]
    rfl

theorem loadBase_withKeys (k : KeyName) (n : RegNum) : (s.withKeys keys).loadBase k n = s.loadBase k n := by
  rw [State.loadBase, authenticate_withKeys hkeys]
  rfl

/-! ## The classes of instructions -/

theorem insertPac_withKeys (k : KeyName) (d : RegNum) (m : Modifiers) : SameWithKeys s keys (insertPac k d m) := by
  rw [SameWithKeys, insertPac, sign_withKeys hkeys]
  exact finish_withKeys s keys _ fun _ => rfl

theorem authenticatePac_withKeys (k : KeyName) (d : RegNum) (m : Modifiers) :
    SameWithKeys s keys (authenticatePac k d m) := by
  rw [SameWithKeys, authenticatePac, authenticate_withKeys hkeys]
  exact finish_withKeys s keys _ fun _ => rfl

theorem branchAuthenticated_withKeys (k : KeyName) (target : Word) (m : Modifiers) :
    SameWithKeys s keys (branchAuthenticated k target m) := by
  rw [SameWithKeys, branchAuthenticated, authenticate_withKeys hkeys]
  exact finish_withKeys s keys _ fun _ => rfl

theorem callAuthenticated_withKeys (k : KeyName) (target : Word) (m : Modifiers) :
    SameWithKeys s keys (callAuthenticated k target m) := by
  rw [SameWithKeys, callAuthenticated, authenticate_withKeys hkeys]
  exact finish_withKeys s keys _ fun _ => rfl

theorem authenticatedReturn_withKeys (k : KeyName) : SameWithKeys s keys (authenticatedReturn k) := by
  have hlevel : (s.withKeys keys).pstate.el.ownLevel = s.pstate.el.ownLevel := rfl
  unfold SameWithKeys authenticatedReturn
  rw [hlevel]
  cases s.pstate.el.ownLevel with
  | none => rfl
  | some l =>
    simp only [authenticate_withKeys hkeys]
    exact finish_withKeys s keys _ fun _ => rfl

theorem authLoad_withKeys (k : KeyName) (t n : RegNum) (offset : Int) (wback : Bool) :
    SameWithKeys s keys (authLoad k t n offset wback) := by
  unfold SameWithKeys authLoad
  split
  · rfl
  · rw [loadBase_withKeys hkeys]
    cases s.loadBase k n with
    | ok base => exact finish_withKeys s keys _ fun data => afterLoad_withKeys s keys t n wback _ data
    | raised e => rfl

theorem execPaciasppc_withKeys : SameWithKeys s keys execPaciasppc := by
  have hfeature : (s.withKeys keys).cfg.pauthLR = s.cfg.pauthLR := rfl
  unfold SameWithKeys execPaciasppc
  rw [hfeature]
  split
  · exact insertPac_withKeys hkeys _ _ _
  · rfl

end EnabledKeys

/-- Settles O16, by the class of the instruction. -/
theorem execReadsOnlyEnabledKeys : Obligations.ExecReadsOnlyEnabledKeys := by
  intro i s keys hkeys hgeneric
  cases i with
  | paciasppc => exact execPaciasppc_withKeys hkeys
  | pacga d n m => exact execPacga_withKeys hgeneric d n m
  | pacm | nop | ret | xpaci | xpacd | xpaclri => rfl
  | eretaa | eretab => exact authenticatedReturn_withKeys hkeys _
  | ldraaOffset t n offset => exact authLoad_withKeys hkeys .da t n offset false
  | ldraaPre t n offset => exact authLoad_withKeys hkeys .da t n offset true
  | ldrabOffset t n offset => exact authLoad_withKeys hkeys .db t n offset false
  | ldrabPre t n offset => exact authLoad_withKeys hkeys .db t n offset true
  | braa | brab | braaz | brabz | retaa | retab => exact branchAuthenticated_withKeys hkeys _ _ _
  | blraa | blrab | blraaz | blrabz => exact callAuthenticated_withKeys hkeys _ _ _
  | pacia | pacib | pacda | pacdb | paciza | pacizb | pacdza | pacdzb | pacia1716 | pacib1716 | paciaz | paciasp
  | pacibz | pacibsp => exact insertPac_withKeys hkeys _ _ _
  | autia | autib | autda | autdb | autiza | autizb | autdza | autdzb | autia1716 | autib1716 | autiaz | autiasp
  | autibz | autibsp => exact authenticatePac_withKeys hkeys _ _ _

end Sys2Proof.Machine
end

section
/-! Family 41_pac_insert.md: the instruction rules' example words (O4), the insert instructions (O37), PACIASPPC under
QARMA (O40) and the UNDEFINED instructions (O51). -/

namespace Sys2Proof

/-! ## The example words -/

/-- The word of a well-formed instruction, given as a number, reads back as the instruction (R80 to R88). -/
theorem decodeTableWord_of_encode {w : Nat} {i : Instr} (hwf : i.wellFormed = true)
    (hw : encode i = BitVec.ofNat 32 (w % 2 ^ 32)) : decodeTableWord 32 w = some i := by
  have hbytes : decode (bytesOfWord (encode i)) = .ok (i, []) := decodeInvertsEncode i [] hwf
  rw [decodeTableWord, ← hw, hbytes]

/-- Settles O4: each example is the word that the formats give its instruction. -/
theorem exampleWordsDecode : Obligations.ExampleWordsDecode := by
  unfold Obligations.ExampleWordsDecode
  and_intros <;> exact decodeTableWord_of_encode rfl rfl

end Sys2Proof

namespace Sys2Proof.Machine

open Sys2Proof

/-! ## The insert instructions -/

/-- Settles O37: with the key enabled and no trap the class writes the signed pointer and ends. -/
theorem insertWritesTheSignedPointer : Obligations.InsertWritesTheSignedPointer := fun _ s _ d _ hi hacts =>
  ⟨_, exec_insert_of_acts hi hacts, wroteRegister_retireAt s d _ _⟩

/-! ## PACIASPPC under QARMA -/

/-- Where PSTATE.PACM is 1 on a full implementation, an extended instruction takes its second modifier (R225). -/
theorem pacmModifiers_of_pacm {s : State} (hlr : s.cfg.pauthLR = true) (hfull : s.cfg.pacmTrivial = false)
    (hpacm : s.pstate.pacm = true) (m1 m2 : Word) : s.pacmModifiers m1 m2 = .two m1 m2 := by
  rw [State.pacmModifiers, State.pacmNow, hlr, hfull, hpacm]
  rfl

/-- A PE with QARMA5 or QARMA3 has the full implementation of PSTATE.PACM (R9). -/
theorem pacmTrivial_of_qarma {cfg : Config} (h : cfg.method = .qarma5 ∨ cfg.method = .qarma3) :
    cfg.pacmTrivial = false := by
  rcases h with hqarma5 | hqarma3
  · rw [Config.pacmTrivial, hqarma5]
  · rw [Config.pacmTrivial, hqarma3]

/-- Under QARMA a PAC has two modifiers by way of one diversifier, explicit or not (R114, R227). -/
theorem computePAC_explicit_eq_two {method : PacMethod} (h : method = .qarma5 ∨ method = .qarma3) (key : PacKey)
    (m1 m2 : Word) : computePAC method key (.explicit m1 m2) = computePAC method key (.two m1 m2) := by
  rcases h with rfl | rfl
  · rfl
  · rfl

/-- Under QARMA an insertion with explicit modifiers is one with the same two modifiers of a PACM. -/
theorem insertPac_explicit_eq_two {s : State} (h : s.cfg.method = .qarma5 ∨ s.cfg.method = .qarma3) (k : KeyName)
    (d : RegNum) (m1 m2 : Word) : insertPac k d (.explicit m1 m2) s = insertPac k d (.two m1 m2) s := by
  have hpac : s.pacFor k (.explicit m1 m2) = s.pacFor k (.two m1 m2) := computePAC_explicit_eq_two h _ m1 m2
  rw [insertPac, insertPac, State.sign, State.sign, hpac]

theorem exec_paciasp (s : State) : exec .paciasp s = insertPac .ia regLR (s.pacmModifiers s.sp s.pc) s := rfl

theorem exec_paciasppc_of_pauthLR {s : State} (h : s.cfg.pauthLR = true) :
    exec .paciasppc s = insertPac .ia regLR (.explicit s.sp s.pc) s := if_pos h

theorem exec_paciasppc_of_not_pauthLR {s : State} (h : s.cfg.pauthLR = false) :
    exec .paciasppc s = .next (s.takeException .undefined) := if_neg (ne_true_of_eq_false h)

/-- Settles O40: both insert with SP and the pc as the two modifiers, which QARMA makes one diversifier. -/
theorem paciasppcAgreesWithPacmRoute : Obligations.PaciasppcAgreesWithPacmRoute := fun s hlr hqarma hpacm =>
  calc exec .paciasppc s
      = insertPac .ia regLR (.explicit s.sp s.pc) s := exec_paciasppc_of_pauthLR hlr
    _ = insertPac .ia regLR (.two s.sp s.pc) s := insertPac_explicit_eq_two hqarma .ia regLR s.sp s.pc
    _ = exec .paciasp s := by
        rw [exec_paciasp, pacmModifiers_of_pacm hlr (pacmTrivial_of_qarma hqarma) hpacm]

/-! ## The UNDEFINED instructions -/

/-- EL0 has no ELR to return by, so an authenticated exception return there is UNDEFINED (R202). -/
theorem exec_return_of_el0 {i : Instr} {s : State} {k : KeyName} (hi : returnKey i = some k)
    (h : s.pstate.el = .el0) : exec i s = .next (s.takeException .undefined) := by
  rw [exec_return s hi, authenticatedReturn, h]
  rfl

theorem syndrome_undefined_ec (s : State) : (s.syndrome .undefined).ec = 0b000000#6 := rfl

/-- The level an exception is taken to holds its syndrome in ESR (R244). -/
theorem takeException_esr_target (s : State) (r : Raise) :
    (s.takeException r).esr.get (s.exceptionTarget r) = s.syndrome r := by
  rw [takeException_esr, get_set_same]

/-- Settles O51: the returns by their level, PACIASPPC by its feature, the EC by the syndrome that ESR receives. -/
theorem undefinedInstructions : Obligations.UndefinedInstructions := fun s =>
  ⟨fun hel => ⟨exec_return_of_el0 rfl hel, exec_return_of_el0 rfl hel⟩, exec_paciasppc_of_not_pauthLR,
    syndrome_undefined_ec s, by rw [takeException_esr_target, syndrome_undefined_ec]⟩

end Sys2Proof.Machine
end

section
/-! Family 42_pac_authenticate.md: an AUT* instruction whose PAC is correct (O41). -/

namespace Sys2Proof.Machine

open Sys2Proof

/-- Settles O41: a correct check is what Authenticate answers, which the class writes to the pointer register. -/
theorem authenticateWritesTheCheckedPointer : Obligations.AuthenticateWritesTheCheckedPointer := by
  intro i s k d m p hi hacts hcheck
  have hauthenticate : s.authenticate k (s.xzr d) m false = .ok p := authenticate_of_correct hacts hcheck false
  exact ⟨_, exec_authenticate_of_ok hi hauthenticate, wroteRegister_retireAt s d p _⟩

end Sys2Proof.Machine
end

section
/-! Family 43_pac_strip_generic.md: XPACI, XPACD and XPACLRI (O43). -/

namespace Sys2Proof.Machine

open Sys2Proof

/-- A strip instruction runs the one operation of its class, on its register and kind of pointer (R180 to R183). -/
theorem exec_strip {i : Instr} {d : RegNum} {isInstr : Bool} (s : State) (h : stripOperands i = some (d, isInstr)) :
    exec i s = stripPac d isInstr s := by
  unfold stripOperands at h
  split at h
  case h_1 | h_2 | h_3 =>
    cases h
    rfl
  case h_4 => cases h

/-- Settles O43: the class writes the stripped pointer and ends, and reads no enable and no trap control. -/
theorem stripWritesTheStrippedPointer : Obligations.StripWritesTheStrippedPointer := fun _ s d _ hi =>
  ⟨_, exec_strip s hi, wroteRegister_retireAt s d _ _⟩

end Sys2Proof.Machine
end

section
/-! Family 44_pac_combined.md, branches, calls and returns: where Authenticate gives a target (O45, O46), RET and the
returns with their key disabled (O48), a failed branch and the fetch after it (O49). -/

namespace Sys2Proof.Machine

open Sys2Proof

/-! ## Branches and calls -/

/-- Authenticate of an enabled key's incorrect PAC gives the VA made non-canonical where a combined instruction does not
raise (R242). -/
theorem authenticate_combined_of_incorrect {s : State} {k : KeyName} {ptr p : Word} {m : Modifiers} (h : s.Acts k)
    (hcheck : s.checkPAC k ptr m = .incorrect p) (hfeature : s.cfg.featFPACCOMBINE = false) :
    s.authenticate k ptr m true = .ok p := by
  have hgoesOn : failRaises s.cfg true = false := hfeature
  rw [authenticate_of_incorrect h hcheck, hgoesOn, if_neg Bool.false_ne_true]

section Operands

variable {i : Instr} {s : State} {k : KeyName} {n : RegNum} {m : Modifiers}

theorem exec_branch_of_ok {target : Word} (hi : branchOperands s i = some (k, n, m))
    (h : s.authenticate k (s.xzr n) m true = .ok target) : exec i s = .next (s.retireAt target) := by
  rw [exec_branch hi, branchAuthenticated, h]
  rfl

theorem exec_link_of_ok {target : Word} (hi : linkOperands s i = some (k, n, m))
    (h : s.authenticate k (s.xzr n) m true = .ok target) :
    exec i s = .next ((s.setXzr 30#5 (s.pc + 4#64)).retireAt target) := by
  rw [exec_link hi, callAuthenticated, h]
  rfl

/-- A combined branch authenticates with an instruction key (R191 to R194, R199, R200). -/
theorem isInstr_of_branchOperands (hi : branchOperands s i = some (k, n, m)) : k.isInstr = true := by
  unfold branchOperands at hi
  split at hi
  case h_1 | h_2 | h_3 | h_4 | h_5 | h_6 =>
    cases hi
    rfl
  case h_7 => cases hi

/-- A combined call authenticates with an instruction key (R195 to R198). -/
theorem isInstr_of_linkOperands (hi : linkOperands s i = some (k, n, m)) : k.isInstr = true := by
  unfold linkOperands at hi
  split at hi
  case h_1 | h_2 | h_3 | h_4 =>
    cases hi
    rfl
  case h_5 => cases hi

end Operands

/-- Settles O45: a target that Authenticate gives ends the branch there. -/
theorem combinedBranchGoesToTheCheckedTarget : Obligations.CombinedBranchGoesToTheCheckedTarget :=
  fun _ s _ _ _ target hi htarget => ⟨_, exec_branch_of_ok hi htarget, wroteNothing_retireAt s target⟩

/-- Settles O46: X30 is written when the target is already known. -/
theorem combinedCallLinksAndBranches : Obligations.CombinedCallLinksAndBranches :=
  fun _ s _ _ _ target hi htarget => ⟨_, exec_link_of_ok hi htarget, wroteRegister_retireAt s 30#5 _ target⟩

/-! ## RET -/

theorem exec_ret (n : RegNum) (s : State) : exec (.ret n) s = .next (s.retireAt (s.xzr n)) := rfl

/-- Settles O48: with its key disabled Authenticate gives X30 itself, to which RET branches too. -/
theorem retBranchesAndDisabledReturnsAreRet : Obligations.RetBranchesAndDisabledReturnsAreRet := by
  refine fun s => ⟨fun n => ⟨_, exec_ret n s, wroteNothing_retireAt s _⟩, fun hdisabled => ?_, fun hdisabled => ?_⟩
  · exact (exec_branch_of_ok rfl (authenticate_of_disabled hdisabled _ _ true)).trans (exec_ret 30#5 s).symm
  · exact (exec_branch_of_ok rfl (authenticate_of_disabled hdisabled _ _ true)).trans (exec_ret 30#5 s).symm

/-! ## The fetch after a failed branch -/

/-- An instruction that completes keeps what pointer authentication reads. -/
theorem Completed.samePointerAuth {s t : State} {next : Word} (h : Completed s t next) : SamePointerAuth s t where
  cfg := h.control.cfg
  el := by rw [h.pstate]
  keys := h.control.keys
  sctlr := h.control.sctlr
  tcr := h.control.tcr
  hcrEl2 := h.control.hcrEl2
  scrEl3 := h.control.scrEl3

/-- States with the same controls have the same canonical addresses (R73). -/
theorem SamePointerAuth.isCanonical_eq {s t : State} (h : SamePointerAuth s t) (a : Word) (isInstr : Bool) :
    t.isCanonical a isInstr = s.isCanonical a isInstr := by
  obtain ⟨hsingle, _, _, htag, hlat, hbottom⟩ := h.reads
  have hrange : t.rangeOf a = s.rangeOf a := by rw [State.rangeOf, State.rangeOf, hsingle]
  have hchecked : t.checkedBits a isInstr = s.checkedBits a isInstr := by
    simp only [State.checkedBits]
    rw [hrange, htag, hlat, hbottom]
  rw [Bool.eq_iff_iff, isCanonical_iff, isCanonical_iff, hchecked, hsingle]

/-- A step at a non-canonical pc takes the fault of the fetch (R72). -/
theorem step_of_nonCanonical {s : State} (h : s.isCanonical s.pc true = false) :
    step s = .next (s.takeException (.fetchFault s.pc)) :=
  step_of_fetch_raised (fetch_of_nonCanonical h)

/-- The step after an instruction that completes at an address not canonical for it takes the fault of that fetch. -/
theorem Completed.nextFetchFaults {s t : State} {next : Word} (h : Completed s t next)
    (hnext : s.isCanonical next true = false) : step t = .next (t.takeException (.fetchFault next)) := by
  have hpc : t.isCanonical t.pc true = false := by rw [h.pc, h.samePointerAuth.isCanonical_eq, hnext]
  rw [step_of_nonCanonical hpc, h.pc]

/-- Settles O49: the branch or call completes at the pointer of its failed check, which O33 says is not canonical, and no
completed instruction changes which addresses are. -/
theorem failedCombinedBranchFaultsAtTheNextFetch : Obligations.FailedCombinedBranchFaultsAtTheNextFetch := by
  intro i s k n m p hi hacts hfeature hcheck
  have htarget := authenticate_combined_of_incorrect hacts hcheck hfeature
  have hnonCanonical : s.isCanonical p k.isInstr = false := failedAuthenticationIsNonCanonical s k _ p m hcheck
  suffices hends : k.isInstr = true ∧ ∃ t, exec i s = .next t ∧ Completed s t p by
    obtain ⟨hinstr, t, hexec, hcompleted⟩ := hends
    rw [hinstr] at hnonCanonical
    exact ⟨t, hexec, hcompleted.pc, hcompleted.nextFetchFaults hnonCanonical⟩
  rcases hi with hbranch | hlink
  · obtain ⟨t, hexec, hwrote⟩ := combinedBranchGoesToTheCheckedTarget i s k n m p hbranch htarget
    exact ⟨isInstr_of_branchOperands hbranch, t, hexec, hwrote.completed⟩
  · obtain ⟨t, hexec, hwrote⟩ := combinedCallLinksAndBranches i s k n m p hlink htarget
    exact ⟨isInstr_of_linkOperands hlink, t, hexec, hwrote.completed⟩

end Sys2Proof.Machine
end

section
/-! Family 44_pac_combined.md, the authenticated exception returns (O50) and the load that is refused (O53). -/

namespace Sys2Proof.Machine

open Sys2Proof

/-! ## Authenticated exception returns -/

theorem exec_return_of_ok {i : Instr} {s : State} {k : KeyName} {l : CtlLevel} {target : Word}
    (hi : returnKey i = some k) (hown : s.pstate.el.ownLevel = some l)
    (h : s.authenticate k (s.elr.get l) (.one s.sp) true = .ok target) :
    exec i s = .next (s.exceptionReturn target (s.spsr.get l)) := by
  rw [exec_return s hi, authenticatedReturn, hown]
  simp only [h]
  rfl

/-- PSTATE after a return is the saved one, its PACM only where enabled at the level returned to (R255). -/
theorem returnedPstate_eq (s : State) (saved : ProcState) :
    s.returnedPstate saved = { saved with pacm := saved.pacm && s.pacmEnabled saved.el } := by
  rw [State.returnedPstate, Bool.and_comm]

/-- An exception return writes no register, stack pointer or exception register. -/
theorem exceptionReturn_keepsRegisters (s : State) (target : Word) (saved : ProcState) :
    RegistersKept s (s.exceptionReturn target saved) ∧ StackPointersKept s (s.exceptionReturn target saved) ∧
      ExceptionRegsKept s (s.exceptionReturn target saved) :=
  ⟨xzr_exceptionReturn s target saved, exceptionReturn_sps s target saved, ⟨rfl, rfl, rfl, rfl⟩⟩

/-- Settles O50: a target that Authenticate gives is returned to with SPSR of the current level. -/
theorem authenticatedReturnRestoresPstate : Obligations.AuthenticatedReturnRestoresPstate := by
  intro i s k l target hi hown htarget
  obtain ⟨hregisters, hstack, hexception⟩ := exceptionReturn_keepsRegisters s target (s.spsr.get l)
  obtain ⟨hcontrol, hmemory⟩ := exceptionReturn_keeps s target (s.spsr.get l)
  exact ⟨_, exec_return_of_ok hi hown htarget, rfl, returnedPstate_eq s _, hregisters, hstack, hcontrol, hexception,
    hmemory⟩

/-! ## The load that is refused -/

/-- Settles O53: the overlap is tested before the base is authenticated. -/
theorem overlappingWritebackIsRefused : Obligations.OverlappingWritebackIsRefused := by
  intro i s o hi hoverlap
  unfold LoadOperands.Overlap at hoverlap
  rw [exec_load s hi, authLoad, if_pos hoverlap]

end Sys2Proof.Machine
end

section
/-! Family 45_pacm.md, the invariant (O10): an exception goes to a level that the PE has and that is not below the
current one, and each way a step can end keeps what the invariant says of PSTATE and of the saved PSTATEs. -/

namespace Sys2Proof.Machine

open Sys2Proof

/-! ## What the invariant reads of the controls -/

/-- Which levels the PE has is a matter of its configuration (R250). -/
theorem ControlKept.present_eq {s t : State} (h : ControlKept s t) (el : EL) : t.present el = s.present el := by
  cases el
  case el0 | el1 => rfl
  case el2 | el3 => rw [State.present, State.present, h.cfg]

/-- Where the effects of PACM are enabled is a matter of the configuration and the controls (R223, R224). -/
theorem ControlKept.pacmEnabled_eq {s t : State} (h : ControlKept s t) (el : EL) :
    t.pacmEnabled el = s.pacmEnabled el := by
  have hhost : t.hostMode = s.hostMode := by rw [State.hostMode, State.hostMode, h.cfg, h.hcrEl2]
  have hgates : t.el2Gates = s.el2Gates := by rw [State.el2Gates, State.el2Gates, h.cfg, hhost]
  have hctl : t.ctlEL .el0 = s.ctlEL .el0 := by rw [State.ctlEL, State.ctlEL, hhost]
  unfold State.pacmEnabled
  rw [hgates, hctl, h.cfg, h.sctlr2, h.hcrxEl2]

/-! ## The level an exception is taken to -/

/-- An exception can be taken to the level: the PE has it, and it is not below the current one (R250, R255). -/
structure State.CanEnter (s : State) (l : CtlLevel) : Prop where
  present : s.present l.toEL = true
  notBelow : s.pstate.el.rank ≤ l.toEL.rank

theorem rank_el0_le (el : EL) : EL.el0.rank ≤ el.rank := Nat.zero_le _

theorem rank_le_el3 (el : EL) : el.rank ≤ EL.el3.rank := by cases el <;> decide

/-- A level above EL0 is the Exception level of its own registers (R29). -/
theorem toEL_of_ownLevel {el : EL} {l : CtlLevel} (h : el.ownLevel = some l) : l.toEL = el := by
  cases el <;> cases h <;> rfl

theorem eq_el0_of_ownLevel_none {el : EL} (h : el.ownLevel = none) : el = .el0 := by
  cases el
  case el0 => rfl
  case el1 | el2 | el3 => cases h

/-- A trap of a PAC instruction goes to EL2 from a level below it, or to EL3 (R252). -/
theorem canEnter_of_trapPAC {s : State} {l : CtlLevel} (h : s.trapPAC = some l) : s.CanEnter l := by
  rcases trapPAC_some h with ⟨rfl, hel2, hel0 | hel1⟩ | ⟨rfl, hel3, _⟩
  · exact ⟨hel2, hel0 ▸ rank_el0_le _⟩
  · exact ⟨hel2, hel1 ▸ by decide⟩
  · exact ⟨hel3, rank_le_el3 _⟩

/-- An exception is a trap to the level it names, or stays at the current level, or leaves EL0 for EL1 or, where the PE
has it, EL2 (R244, R255). -/
theorem exceptionTarget_cases (s : State) (r : Raise) :
    (∃ l, r = .trap l ∧ s.exceptionTarget r = l) ∨
    (s.exceptionTarget r).toEL = s.pstate.el ∨
    (s.pstate.el = .el0 ∧
      (s.exceptionTarget r = .el1 ∨ (s.exceptionTarget r = .el2 ∧ s.cfg.el2On = true))) := by
  cases r
  case trap l => exact .inl ⟨l, rfl, rfl⟩
  all_goals
    right
    simp only [State.exceptionTarget]
    split
    · next hown =>
      refine .inr ⟨eq_el0_of_ownLevel_none hown, ?_⟩
      split
      · next hroutes => exact .inr ⟨rfl, (Bool.and_eq_true_iff.mp hroutes).1⟩
      · exact .inl rfl
    · next l hown => exact .inl (toEL_of_ownLevel hown)

/-- From a level the PE has, every exception that is taken, a trap only where one is due, goes to a level that can be
entered. -/
theorem canEnter_exceptionTarget {s : State} {r : Raise} (hlevel : s.present s.pstate.el = true)
    (htrap : ∀ l, r = .trap l → s.trapPAC = some l) : s.CanEnter (s.exceptionTarget r) := by
  rcases exceptionTarget_cases s r with ⟨l, hr, htarget⟩ | hsame | ⟨hel0, htarget | ⟨htarget, hel2⟩⟩
  · exact htarget ▸ canEnter_of_trapPAC (htrap l hr)
  · exact ⟨hsame ▸ hlevel, hsame ▸ le_rfl⟩
  · exact htarget ▸ ⟨rfl, hel0 ▸ rank_el0_le _⟩
  · exact htarget ▸ ⟨hel2, hel0 ▸ rank_el0_le _⟩

/-- A trap that an instruction takes is due (R252). -/
theorem Raise.ofInstruction.trapPAC_eq {s : State} {r : Raise} (h : r.ofInstruction s) (l : CtlLevel)
    (hr : r = .trap l) : s.trapPAC = some l := by
  subst hr
  exact h

/-! ## Each ending keeps the invariant -/

@[simp] theorem entering_el (p : ProcState) (target : CtlLevel) : (p.entering target).el = target.toEL := rfl

/-- Entry to a level clears PACM (R254). -/
@[simp] theorem entering_pacm (p : ProcState) (target : CtlLevel) : (p.entering target).pacm = false := rfl

@[simp] theorem returnedPstate_el (s : State) (saved : ProcState) : (s.returnedPstate saved).el = saved.el := rfl

/-- An exception return restores a PACM of 1 only to a level where its effects are enabled (R223, R255). -/
theorem returnedPstate_pacm_iff (s : State) (saved : ProcState) :
    (s.returnedPstate saved).pacm = true ↔ saved.pacm = true ∧ s.pacmEnabled saved.el = true := by
  simp only [State.returnedPstate, Bool.and_eq_true, and_comm]

/-- A step that leaves memory, the controls and the saved PSTATEs keeps the invariant where the new PSTATE meets it. -/
theorem State.Inv.of_kept {s t : State} (h : s.Inv) (hcontrol : ControlKept s t) (hmem : t.mem = s.mem)
    (hspsr : t.spsr = s.spsr) (hlevel : s.present t.pstate.el = true)
    (hpacm : t.pstate.pacm = true → s.pacmEnabled t.pstate.el = true) : t.Inv where
  memoryCanonical := by rw [hmem]; exact h.memoryCanonical
  levelPresent := by rw [hcontrol.present_eq]; exact hlevel
  savedPresent := fun l => by rw [hcontrol.present_eq, hspsr]; exact h.savedPresent l
  savedNotAbove := fun l => by rw [hspsr]; exact h.savedNotAbove l
  pacmOnlyEnabled := fun hset => by rw [hcontrol.pacmEnabled_eq]; exact hpacm hset

/-- An instruction that ends keeps the invariant where it sets PACM only if enabled. -/
theorem State.Inv.ended {s : State} (h : s.Inv) (x : Vector Word 31) (sps : StackPointers) (next : Word) {pacm : Bool}
    (hpacm : pacm = true → s.pacmEnabled s.pstate.el = true) : (s.ended x sps next pacm).Inv :=
  h.of_kept (ended_keeps s x sps next pacm).1 rfl rfl h.levelPresent hpacm

/-- An exception return goes to a level the PE has, since the saved one is such (R255). -/
theorem State.Inv.exceptionReturn {s : State} (h : s.Inv) (target : Word) (l : CtlLevel) :
    (s.exceptionReturn target (s.spsr.get l)).Inv :=
  h.of_kept (exceptionReturn_keeps s target _).1 rfl rfl (h.savedPresent l)
    fun hset => ((returnedPstate_pacm_iff s _).mp hset).2

/-- An exception saves the current PSTATE in a level that can be entered, and enters it with PACM 0 (R254). -/
theorem State.Inv.takeException {s : State} {r : Raise} (h : s.Inv)
    (htrap : ∀ l, r = .trap l → s.trapPAC = some l) : (s.takeException r).Inv := by
  have henter := canEnter_exceptionTarget h.levelPresent htrap
  have hcontrol := (takeException_keeps s r).2.2.1
  refine ⟨h.memoryCanonical, ?_, fun l => ?_, fun l => ?_, fun hset => ?_⟩
  · rw [hcontrol.present_eq, takeException_pstate, entering_el]
    exact henter.present
  · rw [hcontrol.present_eq, takeException_spsr, get_set]
    split
    · exact h.levelPresent
    · exact h.savedPresent l
  · rw [takeException_spsr, get_set]
    split
    · next hl => exact hl ▸ henter.notBelow
    · exact h.savedNotAbove l
  · rw [takeException_pstate, entering_pacm] at hset
    cases hset

/-- Whichever way an instruction ends, the invariant is kept. -/
theorem Ending.inv {i : Instr} {s t : State} (hend : Ending i s t) (h : s.Inv) : t.Inv := by
  cases hend with
  | exception r legal next =>
    subst next
    exact h.takeException legal.trapPAC_eq
  | completed x sps pc pacm _ flag next =>
    subst next
    exact h.ended x sps pc fun hset => (flag hset).2
  | exceptionReturn l pc _ _ next =>
    subst next
    exact h.exceptionReturn pc l

/-- Settles O10: a step is an exception of the fetch or of a word of no row, a hint, or an instruction, and each of
them keeps the invariant. -/
theorem stepKeepsInvariant : Obligations.StepKeepsInvariant := by
  intro s t h hstep
  rcases step_next hstep with ⟨_, rfl⟩ | rfl | rfl | ⟨i, _, hexec⟩
  · exact h.takeException fun _ hr => nomatch hr
  · exact h.takeException fun _ hr => nomatch hr
  · exact h.ended s.x s.sps (s.pc + 4#64) (pacm := false) fun hset => nomatch hset
  · exact (exec_ending hexec).inv h

end Sys2Proof.Machine
end

section
/-! Family 45_pacm.md, what sets PSTATE.PACM (O12) and what it gives an instruction (O26). -/

namespace Sys2Proof.Machine

open Sys2Proof

/-- Settles O12: PACM sets PSTATE.PACM as its enable says; of the three ways an instruction can end an exception clears
it, a completed instruction sets it only as PACM, and a return restores it. -/
theorem pacmIsSetOnlyByPacmOrReturn : Obligations.PacmIsSetOnlyByPacmOrReturn := by
  refine ⟨fun s henabled => ⟨_, exec_pacm_eq_ended s, by rw [ended_pstate, henabled]⟩, fun i s t h hset => ?_⟩
  cases exec_ending h with
  | exception r _ next =>
    rw [next, takeException_pstate, entering_pacm] at hset
    cases hset
  | completed x sps pc pacm _ flag next =>
    rw [next, ended_pstate] at hset
    exact .inl (flag hset)
  | exceptionReturn l pc own instr next =>
    rw [next, exceptionReturn_pstate, returnedPstate_pacm_iff] at hset
    exact .inr ⟨instr, l, own, hset⟩

/-- An instruction reads PSTATE.PACM as 1 with FEAT_PAuth_LR and a full implementation only (R223, R225). -/
theorem pacmNow_iff (s : State) :
    s.pacmNow = true ↔ s.cfg.pauthLR = true ∧ s.cfg.pacmTrivial = false ∧ s.pstate.pacm = true := by
  simp only [State.pacmNow, Bool.and_eq_true, Bool.not_eq_true', and_assoc]

/-- Settles O26, by whether the instruction reads PSTATE.PACM as 1. -/
theorem pacmGivesTheSecondModifier : Obligations.PacmGivesTheSecondModifier := fun s m1 m2 =>
  ⟨fun ⟨hlr, hfull, hpacm⟩ => pacmModifiers_of_pacm hlr hfull hpacm m1 m2,
    fun hnot => if_neg ((pacmNow_iff s).not.mpr hnot)⟩

end Sys2Proof.Machine
end

section
/-! Family 60_exceptions.md, the controls: which level's registers apply (O17) and which PAC instructions are trapped,
and where (O59). -/

namespace Sys2Proof.Machine

open Sys2Proof

/-! ## Which registers apply -/

theorem hostMode_iff (s : State) :
    s.hostMode = true ↔ s.hcrEl2.e2h = true ∧ s.hcrEl2.tge = true ∧ s.cfg.el2On = true := by
  rw [State.hostMode, Bool.and_eq_true, Bool.and_eq_true, and_assoc, and_rotate]

theorem ctlEL_el0_of_hostMode {s : State} (h : s.hostMode = true) : s.ctlEL .el0 = .el2 := if_pos h

theorem ctlEL_el0_of_not_hostMode {s : State} (h : s.hostMode = false) : s.ctlEL .el0 = .el1 :=
  if_neg (ne_true_of_eq_false h)

/-- E2H counts where EL2 is implemented and enabled (log 15). -/
theorem e2h_iff (s : State) : s.e2h = true ↔ s.cfg.el2On = true ∧ s.hcrEl2.e2h = true := Bool.and_eq_true_iff

/-- The regimes with a single VA range, by the level whose registers apply (R251). -/
theorem singleRange_iff (s : State) :
    s.singleRange = true ↔ s.ctl = .el3 ∨ (s.ctl = .el2 ∧ ¬ (s.cfg.el2On = true ∧ s.hcrEl2.e2h = true)) := by
  rw [← e2h_iff, State.singleRange]
  cases s.ctl with
  | el1 => simp
  | el2 => simp
  | el3 => simp

/-- Settles O17. -/
theorem controllingLevelAndSingleRange : Obligations.ControllingLevelAndSingleRange := fun s =>
  ⟨rfl, rfl, rfl, ctlEL_el0_of_hostMode, ctlEL_el0_of_not_hostMode, hostMode_iff s, singleRange_iff s⟩

/-! ## Traps -/

/-- HCR_EL2.API traps the PAC instructions of the current level to EL2 (R252). -/
def State.TrapsToEL2 (s : State) : Prop :=
  (s.pstate.el = .el0 ∨ s.pstate.el = .el1) ∧ s.cfg.el2On = true ∧ s.hostMode = false ∧ s.hcrEl2.api = false

/-- SCR_EL3.API traps the PAC instructions of the current level to EL3 (R252). -/
def State.TrapsToEL3 (s : State) : Prop :=
  s.pstate.el ≠ .el3 ∧ s.cfg.haveEL3 = true ∧ s.scrEl3.api = false

/-- The test of `State.trapPAC` for EL2. -/
theorem trapsToEL2_iff (s : State) :
    ((decide (s.pstate.el = .el0) || decide (s.pstate.el = .el1)) && s.cfg.el2On && !s.hostMode &&
      !s.hcrEl2.api) = true ↔ s.TrapsToEL2 := by
  simp only [State.TrapsToEL2, Bool.and_eq_true, Bool.or_eq_true, decide_eq_true_eq, Bool.not_eq_true', and_assoc]

/-- The test of `State.trapPAC` for EL3. -/
theorem trapsToEL3_iff (s : State) :
    (decide (s.pstate.el ≠ .el3) && s.cfg.haveEL3 && !s.scrEl3.api) = true ↔ s.TrapsToEL3 := by
  simp only [State.TrapsToEL3, Bool.and_eq_true, decide_eq_true_eq, Bool.not_eq_true', and_assoc]

theorem trapPAC_of_trapsToEL2 {s : State} (h : s.TrapsToEL2) : s.trapPAC = some .el2 :=
  if_pos ((trapsToEL2_iff s).mpr h)

/-- HCR_EL2.API is looked at before SCR_EL3.API (log 14). -/
theorem trapPAC_of_trapsToEL3 {s : State} (hel2 : ¬ s.TrapsToEL2) (h : s.TrapsToEL3) : s.trapPAC = some .el3 :=
  (if_neg ((trapsToEL2_iff s).not.mpr hel2)).trans (if_pos ((trapsToEL3_iff s).mpr h))

theorem trapPAC_of_no_trap {s : State} (hel2 : ¬ s.TrapsToEL2) (hel3 : ¬ s.TrapsToEL3) : s.trapPAC = none :=
  (if_neg ((trapsToEL2_iff s).not.mpr hel2)).trans (if_neg ((trapsToEL3_iff s).not.mpr hel3))

theorem syndrome_trap_ec (s : State) (l : CtlLevel) : (s.syndrome (.trap l)).ec = 0b001001#6 := rfl

theorem exceptionTarget_trap (s : State) (l : CtlLevel) : s.exceptionTarget (.trap l) = l := rfl

/-- Settles O59, by whether EL2 traps and, where it does not, whether EL3 does. -/
theorem trapControls : Obligations.TrapControls := by
  intro s
  refine ⟨fun hlower hel2 hhost hapi => trapPAC_of_trapsToEL2 ⟨hlower, hel2, hhost, hapi⟩, fun hopen => ?_,
    fun l => ⟨syndrome_trap_ec s l, exceptionTarget_trap s l⟩⟩
  have hnotEL2 : ¬ s.TrapsToEL2 := by
    rintro ⟨hlower, hel2, hhost, hapi⟩
    simp [hlower, hel2, hhost, hapi] at hopen
  refine ⟨fun hel hel3 hapi => trapPAC_of_trapsToEL3 hnotEL2 ⟨hel, hel3, hapi⟩,
    fun hfree => trapPAC_of_no_trap hnotEL2 ?_⟩
  rintro ⟨hel, hel3, hapi⟩
  simp [hel, hel3, hapi] at hfree

end Sys2Proof.Machine
end

section
/-! Family 60_exceptions.md, taking an exception: the level it is taken to, what it saves and writes (O57), the
syndrome of a PAC Fail exception (O58), and that the Exception level rises in no other way (O14). -/

namespace Sys2Proof.Machine

open Sys2Proof

/-! ## The level an exception is taken to -/

/-- Every exception but a trap stays at the level it is taken from, or leaves EL0 as HCR_EL2.TGE routes it (R244). -/
theorem exceptionTarget_of_not_trap {s : State} {r : Raise} (h : ∀ l, r ≠ .trap l) :
    s.exceptionTarget r = s.pstate.el.ownLevel.getD (if s.cfg.el2On && s.hcrEl2.tge then .el2 else .el1) := by
  cases r
  case trap l => exact absurd rfl (h l)
  all_goals
    rw [State.exceptionTarget]
    cases s.pstate.el.ownLevel <;> rfl

theorem ownLevel_toEL (l : CtlLevel) : l.toEL.ownLevel = some l := by cases l <;> rfl

section Target

variable {s : State} {r : Raise} (h : ∀ l, r ≠ .trap l)
include h

theorem exceptionTarget_of_el0_tge (hel : s.pstate.el = .el0) (hel2 : s.cfg.el2On = true)
    (htge : s.hcrEl2.tge = true) : s.exceptionTarget r = .el2 := by
  rw [exceptionTarget_of_not_trap h, hel, hel2, htge]
  rfl

theorem exceptionTarget_of_el0 (hel : s.pstate.el = .el0) (hroute : ¬ (s.cfg.el2On = true ∧ s.hcrEl2.tge = true)) :
    s.exceptionTarget r = .el1 := by
  rw [exceptionTarget_of_not_trap h, hel, if_neg (Bool.and_eq_true_iff.not.mpr hroute)]
  rfl

theorem exceptionTarget_of_toEL {l : CtlLevel} (hel : s.pstate.el = l.toEL) : s.exceptionTarget r = l := by
  rw [exceptionTarget_of_not_trap h, hel, ownLevel_toEL, Option.getD_some]

end Target

/-! ## What taking an exception writes -/

/-- FAR of the level entered holds the address of an abort, and is kept by the other exceptions (R254). -/
theorem get_farAfter_same (r : Raise) (far : PerLevel Word) (l : CtlLevel) :
    (r.farAfter far l).get l = r.faultAddress.getD (far.get l) := by
  unfold Raise.farAfter
  cases r.faultAddress with
  | none => rfl
  | some a => exact get_set_same far l a

theorem get_farAfter_other (r : Raise) (far : PerLevel Word) {l l' : CtlLevel} (h : l' ≠ l) :
    (r.farAfter far l).get l' = far.get l' := by
  unfold Raise.farAfter
  cases r.faultAddress with
  | none => rfl
  | some a => exact get_set_other far l l' a h

/-- The level an exception is taken to holds the PSTATE it was taken from in SPSR (R254). -/
theorem takeException_spsr_target (s : State) (r : Raise) :
    (s.takeException r).spsr.get (s.exceptionTarget r) = s.pstate := by
  rw [takeException_spsr, get_set_same]

/-- Settles O57: the target by the level the exception is taken from, the entry register by register. -/
theorem exceptionEntry : Obligations.ExceptionEntry := by
  refine ⟨fun s r h => ⟨exceptionTarget_of_el0_tge h, exceptionTarget_of_el0 h, fun l => exceptionTarget_of_toEL h⟩, ?_⟩
  rintro s t r l rfl rfl
  refine ⟨takeException_spsr_target s r, takeException_elr_target s r, takeException_esr_target s r, ?_,
    fun l' hother => ⟨get_set_other _ _ _ _ hother, get_set_other _ _ _ _ hother, get_set_other _ _ _ _ hother,
      get_farAfter_other r _ hother⟩, rfl, rfl, takeException_keeps s r⟩
  rw [takeException_far, get_farAfter_same]
  cases r <;> rfl

/-! ## PAC Fail -/

theorem syndrome_pacFail (s : State) (code : BitVec 2) :
    s.syndrome (.pacFail code) = { ec := 0b011100#6, il := true, iss := code.setWidth 25 } := rfl

/-- The ISS of PAC Fail holds the code in bits [1:0] and zeros above (R244). -/
theorem pacFail_iss_fields (code : BitVec 2) :
    (code.setWidth 25).extractLsb' 0 2 = code ∧ (code.setWidth 25).extractLsb' 2 23 = 0#23 := by
  revert code
  decide

/-- Settles O58: the code is the ISS, extended with zeros, and PAC Fail is not a trap. -/
theorem pacFailSyndromeAndTarget : Obligations.PacFailSyndromeAndTarget := by
  intro s code
  have hnotTrap : ∀ l, Raise.pacFail code ≠ .trap l := fun l h => nomatch h
  obtain ⟨hcode, hzero⟩ := pacFail_iss_fields code
  rw [syndrome_pacFail]
  exact ⟨rfl, rfl, hcode, hzero, exceptionTarget_of_el0_tge hnotTrap, exceptionTarget_of_el0 hnotTrap,
    fun l => exceptionTarget_of_toEL hnotTrap⟩

/-! ## The Exception level -/

theorem ended_el (s : State) (x : Vector Word 31) (sps : StackPointers) (next : Word) (pacm : Bool) :
    (s.ended x sps next pacm).pstate.el = s.pstate.el := rfl

/-- The saved level an exception return goes to is not above the current one. -/
theorem State.Inv.exceptionReturn_rank_le {s : State} (h : s.Inv) {l : CtlLevel} (hown : s.pstate.el.ownLevel = some l)
    (target : Word) : (s.exceptionReturn target (s.spsr.get l)).pstate.el.rank ≤ s.pstate.el.rank := by
  rw [exceptionReturn_pstate, returnedPstate_el, ← toEL_of_ownLevel hown]
  exact h.savedNotAbove l

/-- Of the ways an instruction can end only an exception raises the level. -/
theorem Ending.exception_of_rank_lt {i : Instr} {s t : State} (hend : Ending i s t) (h : s.Inv)
    (hrises : s.pstate.el.rank < t.pstate.el.rank) : ∃ r, t = s.takeException r := by
  cases hend with
  | exception r _ next => exact ⟨r, next⟩
  | completed x sps pc pacm _ _ next =>
    rw [next, ended_el] at hrises
    exact absurd hrises (lt_irrefl _)
  | exceptionReturn l pc own _ next =>
    rw [next] at hrises
    exact absurd hrises (Nat.not_lt.mpr (h.exceptionReturn_rank_le own pc))

/-- Of the ways a step can end only an exception raises the level. -/
theorem step_exception_of_rank_lt {s t : State} (h : s.Inv) (hstep : step s = .next t)
    (hrises : s.pstate.el.rank < t.pstate.el.rank) : ∃ r, t = s.takeException r := by
  rcases step_next hstep with ⟨_, hfetch⟩ | hundefined | rfl | ⟨i, _, hexec⟩
  · exact ⟨_, hfetch⟩
  · exact ⟨_, hundefined⟩
  · exact absurd hrises (lt_irrefl _)
  · exact (exec_ending hexec).exception_of_rank_lt h hrises

/-- Settles O14: a step that raises the level took an exception to another level. -/
theorem privilegeRisesOnlyByException : Obligations.PrivilegeRisesOnlyByException := by
  intro s t h hstep hrises
  obtain ⟨r, rfl⟩ := step_exception_of_rank_lt h hstep hrises
  have hother : s.pstate.el ≠ (s.exceptionTarget r).toEL := fun hsame => by
    rw [takeException_pstate, entering_el, ← hsame] at hrises
    exact lt_irrefl _ hrises
  have hoffset : s.vectorOffset (s.exceptionTarget r) = s.cfg.vectorLower := if_neg hother
  refine ⟨s.exceptionTarget r, rfl, takeException_elr_target s r, takeException_spsr_target s r, ?_⟩
  rw [takeException_pc, hoffset]

end Sys2Proof.Machine
end

section
/-! Family 60_exceptions.md, an incorrect PAC: in an AUT* instruction (O42) and in a combined instruction (O47). -/

namespace Sys2Proof.Machine

open Sys2Proof

/-- An incorrect PAC raises a PAC Fail exception where a failure raises (R242, R243). -/
theorem authenticate_of_incorrect_raises {s : State} {k : KeyName} {ptr p : Word} {m : Modifiers} {combined : Bool}
    (h : s.Acts k) (hcheck : s.checkPAC k ptr m = .incorrect p) (hraises : failRaises s.cfg combined = true) :
    s.authenticate k ptr m combined = .raised (.pacFail k.failCode) := by
  rw [authenticate_of_incorrect h hcheck, if_pos hraises]

/-! ## AUT* instructions -/

theorem exec_authenticate_of_raised {i : Instr} {s : State} {k : KeyName} {d : RegNum} {m : Modifiers} {r : Raise}
    (hi : authenticateOperands s i = some (k, d, m)) (h : s.authenticate k (s.xzr d) m false = .raised r) :
    exec i s = .next (s.takeException r) := by
  rw [exec_authenticate hi, authenticatePac, h]
  rfl

/-- Settles O42: Authenticate answers the pointer of the failed check without FEAT_FPAC and raises with it. -/
theorem authenticateFailureOutcomes : Obligations.AuthenticateFailureOutcomes := by
  intro i s k d m p hi hacts hcheck
  refine ⟨failedAuthenticationIsNonCanonical s k _ p m hcheck, fun hfeature => ?_, fun hfeature => ?_⟩
  · have hgoesOn : failRaises s.cfg false = false := hfeature
    have hok : s.authenticate k (s.xzr d) m false = .ok p := by
      rw [authenticate_of_incorrect hacts hcheck, hgoesOn, if_neg Bool.false_ne_true]
    exact ⟨_, exec_authenticate_of_ok hi hok, wroteRegister_retireAt s d p _⟩
  · have hraised := authenticate_of_incorrect_raises (combined := false) hacts hcheck hfeature
    refine ⟨_, k.failCode, by cases k <;> rfl, exec_authenticate_of_raised hi hraised, rfl, ?_, takeException_keeps s _⟩
    rw [takeException_esr_target, syndrome_pacFail]

/-! ## Combined instructions -/

section CombinedRaised

variable {i : Instr} {s : State} {k : KeyName} {r : Raise}

theorem exec_branch_or_link_of_raised {n : RegNum} {m : Modifiers}
    (hi : branchOperands s i = some (k, n, m) ∨ linkOperands s i = some (k, n, m))
    (h : s.authenticate k (s.xzr n) m true = .raised r) : exec i s = .next (s.takeException r) := by
  rcases hi with hbranch | hlink
  · rw [exec_branch hbranch, branchAuthenticated, h]
    rfl
  · rw [exec_link hlink, callAuthenticated, h]
    rfl

/-- A branch or call whose Authenticate gives a target goes there (R190). -/
theorem exec_branch_or_link_pc {n : RegNum} {m : Modifiers} {target : Word}
    (hi : branchOperands s i = some (k, n, m) ∨ linkOperands s i = some (k, n, m))
    (h : s.authenticate k (s.xzr n) m true = .ok target) : ∃ t, exec i s = .next t ∧ t.pc = target := by
  rcases hi with hbranch | hlink
  · exact ⟨_, exec_branch_of_ok hbranch h, rfl⟩
  · exact ⟨_, exec_link_of_ok hlink h, rfl⟩

theorem exec_return_of_raised {l : CtlLevel} (hi : returnKey i = some k) (hown : s.pstate.el.ownLevel = some l)
    (h : s.authenticate k (s.elr.get l) (.one s.sp) true = .raised r) : exec i s = .next (s.takeException r) := by
  rw [exec_return s hi, authenticatedReturn, hown]
  simp only [h]
  rfl

end CombinedRaised

/-- Settles O47: with FEAT_FPACCOMBINE Authenticate raises, without it the pointer of the failed check goes on, by the class
of the instruction. -/
theorem combinedFailureOutcomes : Obligations.CombinedFailureOutcomes := by
  intro i s k p hacts
  refine ⟨fun c => by rw [syndrome_pacFail], fun ptr m hcheck => failedAuthenticationIsNonCanonical s k ptr p m hcheck,
    fun n m hi hcheck => ⟨fun hfeature => ?_, fun hfeature => ?_⟩,
    fun l hi hown hcheck => ⟨fun hfeature => ?_, fun hfeature => ?_⟩, ?_⟩
  · exact exec_branch_or_link_of_raised hi (authenticate_of_incorrect_raises hacts hcheck hfeature)
  · exact exec_branch_or_link_pc hi (authenticate_combined_of_incorrect hacts hcheck hfeature)
  · exact exec_return_of_raised hi hown (authenticate_of_incorrect_raises hacts hcheck hfeature)
  · exact ⟨_, exec_return_of_ok hi hown (authenticate_combined_of_incorrect hacts hcheck hfeature), rfl⟩
  · rintro o hi rfl hoverlap haligned hcheck
    refine ⟨fun hfeature => ?_, fun hfeature hcanonical => ?_, fun hfeature hcanonical hperformed => ?_⟩
    · exact exec_load_of_base_raised hi hoverlap
        ((loadBase_of_aligned haligned).trans (authenticate_of_incorrect_raises hacts hcheck hfeature))
    · have hbase := authenticate_combined_of_incorrect hacts hcheck hfeature
      rw [exec_load_of_base hi hoverlap haligned hbase, memRead8_of_nonCanonical hcanonical]
      rfl
    · have hbase := authenticate_combined_of_incorrect hacts hcheck hfeature
      obtain ⟨t, data, hexec, hcompleted, hbytes, hdest, _⟩ :=
        loadWritesTheDoubleword i s o p hi hoverlap haligned hbase hcanonical hperformed
      exact ⟨t, hexec, hcompleted.pc, fun hd j hj => by rw [hdest hd, hbytes j hj]⟩

end Sys2Proof.Machine
end
